-- ==== Sys2Proof/Word.lean ====
section
/-! DEFINITION. The word types of the block (spec 00_scope R8, R11). -/

namespace Sys2Proof

/-- `u8`: one byte of a frame. -/
abbrev Byte := BitVec 8

/-- `u16`: a register value, a register address, a quantity, a CRC, a command word. -/
abbrev Word := BitVec 16

/-- `u32`: a counter of the statistics, a millisecond time. -/
abbrev U32 := BitVec 32

/-- A channel index, 0 to 3 (R5 `CHANNEL_COUNT = 4`, R11, conflict C9). -/
abbrev Chan := Fin 4

end Sys2Proof
end

