-- ==== Sys2Proof/Syntax.lean ====
section
/-! DEFINITION. The operations the block accepts: one constructor of `Instr` for each row of the opcode table
(spec 30_encoding R104, R117 to R119), the decoded wire requests, and the agent steps an environment can take. -/

namespace Sys2Proof

/-- One operation of the block. Operands are the decoded fields of 30_encoding R105 to R119. -/
inductive Instr where
  /-- FUNC 0x03 (R105, 41_register_access R190). -/
  | readHoldingRegisters (start qty : Word)
  /-- FUNC 0x06 (R107, 41_register_access R192). -/
  | writeSingleRegister (reg value : Word)
  /-- FUNC 0x10 (R109, 41_register_access R200): `data` is the `bc` bytes after the byte count. -/
  | writeMultipleRegisters (start qty : Word) (bc : Byte) (data : List Byte)
  /-- Any other FUNC (R104, 41_register_access R205); the payload is not examined. -/
  | illegalFunction (fc : Byte)
  /-- OP 0x01, `MASK = ARG[3:0]` (43_coordinator R284). -/
  | coordStart (mask : BitVec 4)
  /-- OP 0x02 (R285). -/
  | coordStop (mask : BitVec 4)
  /-- OP 0x03, `IDX = ARG[7:0]` (R286). -/
  | unitStart (idx : Byte)
  /-- OP 0x04 (R287). -/
  | unitStop (idx : Byte)
  /-- OP 0x05, `F = ARG[7]` is `isOverload`, `IDX = ARG[6:0]` (R291). -/
  | reportFault (overload : Bool) (idx : BitVec 7)
  /-- OP 0x06 (R292). -/
  | emergencyStop
  /-- OP 0x07 (R294). -/
  | clearEstop
  /-- OP 0x08 (R295). -/
  | unitReset (idx : Byte)
  /-- OP 0x09, `F = ARG[7]` is `inhibit` (R296). -/
  | setInhibit (inhibit : Bool) (idx : BitVec 7)
  /-- OP 0x0A (R297). -/
  | confirmStart (idx : Byte)
  /-- OP 0x0B (R300). -/
  | update
  /-- OP 0x00 and 0x0C to 0xFF (30_encoding R118). -/
  | reservedCommand (op : Byte)
  /-- The receive agent delivers a frame (40_frame_codec R141). -/
  | frame (bytes : List Byte)
  /-- The transmit agent has sent the oldest response (R171). -/
  | txDone
  /-- The main-loop step (70_reset_and_hazards R430). -/
  | tick
  /-- The time agent (60_exceptions R410). -/
  | advance (dt : U32)
  /-- The watchdog agent (44_safety_supervisor R345). -/
  | wdtExpire
  /-- The input agent latches an overload edge (60_exceptions R404). -/
  | overloadEdge (i : Chan)
  /-- The cold reset (70_reset_and_hazards R420). -/
  | powerOn
  deriving DecidableEq, Repr, Inhabited

/-- A decoded wire request: the `req` of 40_frame_codec R150, and its illegal-function case. -/
inductive Request where
  | read (start qty : Word)
  | write1 (reg value : Word)
  | writeN (start qty : Word) (bc : Byte) (data : List Byte)
  | illegal (fc : Byte)
  deriving DecidableEq, Repr, Inhabited

/-- Why a delivered frame draws no response (60_exceptions R373). -/
inductive FrameDrop where
  /-- Shorter than 4 or longer than 256 bytes (40_frame_codec R152). -/
  | badLength
  /-- For another slave address (R153). -/
  | otherStation
  /-- The CRC does not match (R154). -/
  | crcMismatch
  /-- The wrong length for a known function code (R157). -/
  | wrongLength
  deriving DecidableEq, Repr, Inhabited

/-- One agent step as it reaches the block (00_scope R7): a 16-bit word on the command port, or one of the seven
internal events, which have no encoding (30_encoding R119). -/
inductive Input where
  | port (w : Word)
  | frame (bytes : List Byte)
  | txDone
  | tick
  | advance (dt : U32)
  | wdtExpire
  | overloadEdge (i : Chan)
  | powerOn
  deriving DecidableEq, Repr, Inhabited

/-- Where an operation is written down: a wire frame, or an agent step. -/
inductive Encoding where
  | wire (bytes : List Byte)
  | input (x : Input)
  deriving DecidableEq, Repr, Inhabited

/-- The operation a wire request is. -/
def Request.toInstr : Request → Instr
  | .read start qty => .readHoldingRegisters start qty
  | .write1 reg value => .writeSingleRegister reg value
  | .writeN start qty bc data => .writeMultipleRegisters start qty bc data
  | .illegal fc => .illegalFunction fc

end Sys2Proof
end

