-- ==== Sys2Proof/Config.lean ====
section
/-! DEFINITION. What is fixed for one block (spec 00_scope R5) and the free values the spec leaves open: the input
samples of 60_exceptions R404 and the order of agent steps of R386. -/

namespace Sys2Proof

/-- The OPEN parameters of 00_scope R5 (70_reset_and_hazards R423). Log 1. The two timeouts, the tick bound and the
queue depth are counts that no rule wraps. -/
structure Params where
  /-- `SLAVE_ADDR` -/
  slaveAddr : Byte
  /-- `COMM_TIMEOUT_MS` -/
  commTimeoutMs : Nat
  /-- `WDT_TIMEOUT_MS` -/
  wdtTimeoutMs : Nat
  /-- `START_TIMEOUT_TICKS` -/
  startTimeoutTicks : Nat
  /-- `FRAME_QUEUE_DEPTH` -/
  frameQueueDepth : Nat
  deriving DecidableEq, Repr

/-- The ranges 00_scope R5 gives the parameters; 42_channel_fsm R236 bounds the tick count. -/
abbrev Params.valid (p : Params) : Prop :=
  1 ≤ p.slaveAddr.toNat ∧ p.slaveAddr.toNat ≤ 247 ∧ 0 < p.commTimeoutMs ∧ 0 < p.wdtTimeoutMs ∧
    p.startTimeoutTicks ≤ 0xFFFE ∧ 1 ≤ p.frameQueueDepth

/-- DESIGN CHOICE (log 1, unsafe for a statement about `State.reset` alone): the values of 95_test_vectors section 0. -/
def Params.vectors : Params where
  slaveAddr := 1
  commTimeoutMs := 1000
  wdtTimeoutMs := 500
  startTimeoutTicks := 2
  frameQueueDepth := 1

/-- The register address map (20_memory R72 to R75), a configuration record as that file asks. -/
structure Layout where
  /-- first address of the system status block -/
  sysBase : Nat
  /-- first address of the global control block -/
  globBase : Nat
  /-- `CH_BASE(0)` -/
  chBase : Nat
  /-- `CH_BASE(i+1) - CH_BASE(i)` -/
  chStride : Nat
  deriving DecidableEq, Repr

namespace Config

/-- The default layout, decision D9 (20_memory R73 to R75). -/
def layout : Layout where
  sysBase := 0x0000
  globBase := 0x0010
  chBase := 0x0100
  chStride := 0x0010

/-- `AMP_MIN` (00_scope R5). -/
def ampMin : Word := 20
/-- `AMP_MAX` (00_scope R5). -/
def ampMax : Word := 100
/-- `READ_QTY_MAX` (00_scope R5). -/
def readQtyMax : Nat := 125
/-- `WRITE_QTY_MAX` (00_scope R5). -/
def writeQtyMax : Nat := 123
/-- `MAX_FRAME_LEN` (00_scope R5). -/
def maxFrameLen : Nat := 256
/-- The least frame: address, function, CRC (40_frame_codec R152). -/
def minFrameLen : Nat := 4

/-- FREE VALUE (log 2): `in.power[i]` at the n-th phase D (60_exceptions R404). -/
opaque power : Nat → Chan → Word
/-- FREE VALUE (log 2): `in.frequency[i]` at the n-th phase D. -/
opaque frequency : Nat → Chan → Word
/-- FREE VALUE (log 2): `in.amplitude[i]` at the n-th phase D. -/
opaque amplitude : Nat → Chan → Word
/-- FREE VALUE (log 2): `in.freq_lock[i]` at the n-th phase D. -/
opaque freqLock : Nat → Chan → Bool
/-- FREE VALUE (log 2): `in.amp_fault[i]` at the n-th phase D. -/
opaque ampFault : Nat → Chan → Bool

/-- FREE VALUE (log 3): which agent steps at the n-th free choice, and with which operand (60_exceptions R386). -/
opaque agentStep : Nat → Input

end Config

end Sys2Proof
end

