-- ==== Sys2Proof/WellFormed.lean ====
section
/-! DEFINITION. Which operand values the spec's encodings admit. -/

namespace Sys2Proof

/-- The three function codes of 30_encoding R104. -/
def supportedFunction (fc : Byte) : Bool :=
  fc == 0x03 || fc == 0x06 || fc == 0x10

/-- The reserved command opcodes of 30_encoding R118: 0x00 and 0x0C to 0xFF. -/
def reservedOpcode (op : Byte) : Bool :=
  op == 0 || decide (0x0C ≤ op.toNat)

/-- Operand checks that the field widths do not make by themselves. A write-multiple carries exactly its byte count
of data, in a frame of at most 256 bytes (R100, R109); an illegal function code is none of the three (R104); a reserved
opcode is reserved (R118); time advances by at least 1 (60_exceptions R410). A quantity, a channel index or a register
value out of range is NOT ill-formed: the operation answers for it. -/
def Instr.wellFormed : Instr → Bool
  | .readHoldingRegisters _ _ => true
  | .writeSingleRegister _ _ => true
  | .writeMultipleRegisters _ _ bc data => data.length == bc.toNat && decide (9 + bc.toNat ≤ Config.maxFrameLen)
  | .illegalFunction fc => !supportedFunction fc
  | .coordStart _ => true
  | .coordStop _ => true
  | .unitStart _ => true
  | .unitStop _ => true
  | .reportFault _ _ => true
  | .emergencyStop => true
  | .clearEstop => true
  | .unitReset _ => true
  | .setInhibit _ _ => true
  | .confirmStart _ => true
  | .update => true
  | .reservedCommand op => reservedOpcode op
  | .frame _ => true
  | .txDone => true
  | .tick => true
  | .advance dt => dt != 0
  | .wdtExpire => true
  | .overloadEdge _ => true
  | .powerOn => true

end Sys2Proof
end

