-- ==== Sys2Proof/Decode.lean ====
section
/-! DEFINITION. The byte-order helpers, the CRC-16, the frame decoder (spec 40_frame_codec R150 up to the dispatcher),
the command-word decoder (30_encoding R116 to R118), and the encoder written from the same tables. Everything is total
and structurally recursive, so Lean's kernel can evaluate it. -/

namespace Sys2Proof

/-! ### Bytes and fields -/

/-- `f[i]` (00_scope R10); read only below the length of `f`. -/
def byteAt (f : List Byte) (i : Nat) : Byte := f.getD i 0

/-- `be16(f, i) = f[i] ++ f[i+1]` (00_scope R10). -/
def be16 (f : List Byte) (i : Nat) : Word := byteAt f i ++ byteAt f (i + 1)

/-- `le16(f, i) = f[i+1] ++ f[i]` (00_scope R10). -/
def le16 (f : List Byte) (i : Nat) : Word := byteAt f (i + 1) ++ byteAt f i

/-- `v[15:8]` -/
def hiByte (v : Word) : Byte := v.extractLsb' 8 8

/-- `v[7:0]` -/
def loByte (v : Word) : Byte := v.extractLsb' 0 8

/-- A u16 high byte first (20_memory R77). -/
def be16bytes (v : Word) : List Byte := [hiByte v, loByte v]

/-- A u16 low byte first: the order of the CRC (20_memory R77). -/
def le16bytes (v : Word) : List Byte := [loByte v, hiByte v]

/-! ### CRC-16 (40_frame_codec R145) -/

/-- One of the eight shifts of R145. -/
def crcBit (c : Word) : Word :=
  if c.getLsbD 0 then (c >>> 1) ^^^ 0xA001 else c >>> 1

/-- `n` shifts. -/
def crcBits : Nat → Word → Word
  | 0, c => c
  | n + 1, c => crcBits n (crcBit c)

/-- One byte of R145: exclusive-or into the low half, then eight shifts. -/
def crcByte (c : Word) (b : Byte) : Word := crcBits 8 (c ^^^ b.setWidth 16)

/-- `crc16` of R145. -/
def crc16 (bs : List Byte) : Word := bs.foldl crcByte 0xFFFF

/-- `p ++ [c[7:0], c[15:8]]` with `c = crc16(p)` (40_frame_codec R166). -/
def withCrc (p : List Byte) : List Byte := p ++ le16bytes (crc16 p)

/-! ### The wire decoder (40_frame_codec R150, R152 to R157) -/

/-- The function case of R150, after the length, address and CRC checks: the request, or `wrongLength`. -/
def decodeFunction (f : List Byte) : Except FrameDrop Request :=
  let n := f.length
  let fc := byteAt f 1
  if fc = 0x03 then
    if n = 8 then .ok (.read (be16 f 2) (be16 f 4)) else .error .wrongLength
  else if fc = 0x06 then
    if n = 8 then .ok (.write1 (be16 f 2) (be16 f 4)) else .error .wrongLength
  else if fc = 0x10 then
    if 9 ≤ n ∧ n = 9 + (byteAt f 6).toNat then
      .ok (.writeN (be16 f 2) (be16 f 4) (byteAt f 6) ((f.drop 7).take (n - 9)))
    else .error .wrongLength
  else .ok (.illegal fc)

/-- The whole decoder, in the order of R150: length, address, CRC, function, length for the function. -/
def decodeFrame (slaveAddr : Byte) (f : List Byte) : Except FrameDrop Request :=
  let n := f.length
  if n < Config.minFrameLen ∨ Config.maxFrameLen < n then .error .badLength
  else if byteAt f 0 ≠ slaveAddr then .error .otherStation
  else if le16 f (n - 2) ≠ crc16 (f.take (n - 2)) then .error .crcMismatch
  else decodeFunction f

/-! ### The command port (30_encoding R116 to R118) -/

/-- `OP = w[15:8]`. -/
def opOf (w : Word) : Byte := hiByte w

/-- `ARG = w[7:0]`. -/
def argOf (w : Word) : Byte := loByte w

/-- `MASK = ARG[3:0]`. -/
def maskOf (w : Word) : BitVec 4 := w.extractLsb' 0 4

/-- `F = ARG[7]`. -/
def flagOf (w : Word) : Bool := w.getLsbD 7

/-- `IDX = ARG[6:0]`, in a word that also has a flag. -/
def idx7Of (w : Word) : BitVec 7 := w.extractLsb' 0 7

/-- The opcode table of R117; every other word is reserved (R118). -/
def decodeCommand (w : Word) : Instr :=
  if opOf w = 0x01 then .coordStart (maskOf w)
  else if opOf w = 0x02 then .coordStop (maskOf w)
  else if opOf w = 0x03 then .unitStart (argOf w)
  else if opOf w = 0x04 then .unitStop (argOf w)
  else if opOf w = 0x05 then .reportFault (flagOf w) (idx7Of w)
  else if opOf w = 0x06 then .emergencyStop
  else if opOf w = 0x07 then .clearEstop
  else if opOf w = 0x08 then .unitReset (argOf w)
  else if opOf w = 0x09 then .setInhibit (flagOf w) (idx7Of w)
  else if opOf w = 0x0A then .confirmStart (argOf w)
  else if opOf w = 0x0B then .update
  else .reservedCommand (opOf w)

/-- The operation an agent step is. -/
def decodeInput : Input → Instr
  | .port w => decodeCommand w
  | .frame bytes => .frame bytes
  | .txDone => .txDone
  | .tick => .tick
  | .advance dt => .advance dt
  | .wdtExpire => .wdtExpire
  | .overloadEdge i => .overloadEdge i
  | .powerOn => .powerOn

/-- The decoder of both kinds of encoded operation: a frame may be dropped, an agent step never is. -/
def decode (slaveAddr : Byte) : Encoding → Except FrameDrop Instr
  | .wire bytes =>
    match decodeFrame slaveAddr bytes with
    | .ok req => .ok req.toInstr
    | .error d => .error d
  | .input x => .ok (decodeInput x)

/-! ### The encoder -/

/-- A command word (R116). -/
def commandWord (op arg : Byte) : Word := op ++ arg

/-- `ARG` of an operation with a flag and an index (R116). -/
def flagArg (flag : Bool) (idx : BitVec 7) : Byte := BitVec.ofBool flag ++ idx

/-- The bytes of an operation (R105, R107, R109, R117), or the agent step it is. Bits that the spec ignores are
written 0, and an illegal function carries no payload (log 16). -/
def encode (slaveAddr : Byte) : Instr → Encoding
  | .readHoldingRegisters start qty => .wire (withCrc ([slaveAddr, 0x03] ++ be16bytes start ++ be16bytes qty))
  | .writeSingleRegister reg value => .wire (withCrc ([slaveAddr, 0x06] ++ be16bytes reg ++ be16bytes value))
  | .writeMultipleRegisters start qty bc data =>
    .wire (withCrc ([slaveAddr, 0x10] ++ be16bytes start ++ be16bytes qty ++ [bc] ++ data))
  | .illegalFunction fc => .wire (withCrc [slaveAddr, fc])
  | .coordStart mask => .input (.port (commandWord 0x01 (mask.setWidth 8)))
  | .coordStop mask => .input (.port (commandWord 0x02 (mask.setWidth 8)))
  | .unitStart idx => .input (.port (commandWord 0x03 idx))
  | .unitStop idx => .input (.port (commandWord 0x04 idx))
  | .reportFault ov idx => .input (.port (commandWord 0x05 (flagArg ov idx)))
  | .emergencyStop => .input (.port (commandWord 0x06 0))
  | .clearEstop => .input (.port (commandWord 0x07 0))
  | .unitReset idx => .input (.port (commandWord 0x08 idx))
  | .setInhibit b idx => .input (.port (commandWord 0x09 (flagArg b idx)))
  | .confirmStart idx => .input (.port (commandWord 0x0A idx))
  | .update => .input (.port (commandWord 0x0B 0))
  | .reservedCommand op => .input (.port (commandWord op 0))
  | .frame bytes => .input (.frame bytes)
  | .txDone => .input .txDone
  | .tick => .input .tick
  | .advance dt => .input (.advance dt)
  | .wdtExpire => .input .wdtExpire
  | .overloadEdge i => .input (.overloadEdge i)
  | .powerOn => .input .powerOn

/-! ### Words of the opcode table

The table's wire rows match on FUNC alone (8 bits), its command rows on the 16-bit word. A wire word is laid out as a
request: `SLAVE_ADDR`, FUNC, operand bytes of zeros up to the length of the function, and the CRC (log 7). -/

/-- Byte `k` of `w`, byte 0 the least significant. -/
def byteOfNat (w k : Nat) : Byte := BitVec.ofNat 8 (w / 256 ^ k)

/-- How many bytes stand between ADDR and the CRC in a request whose operand bytes are given (R105, R107, R109). -/
def bodyLength (fc bc : Byte) (given : Nat) : Nat :=
  if fc = 0x03 ∨ fc = 0x06 then 5
  else if fc = 0x10 then 6 + bc.toNat
  else given

/-- The request frame of a table word: FUNC is the word's first byte. -/
def tableFrame (slaveAddr : Byte) (nbits w : Nat) : List Byte :=
  let w := w % 2 ^ nbits
  let len := bodyLength (byteOfNat w 0) (byteOfNat w 5) ((nbits + 7) / 8)
  withCrc (slaveAddr :: (List.range len).map (byteOfNat w))

/-- Where a table word stands: 16-bit words on the command port, all others on the wire. -/
def tableEncoding (slaveAddr : Byte) (nbits w : Nat) : Encoding :=
  if nbits = 16 then .input (.port (BitVec.ofNat 16 w)) else .wire (tableFrame slaveAddr nbits w)

/-- The operation the decoder reads from a word of the opcode table. -/
def decodeTableWord (nbits w : Nat) : Option Instr :=
  match decode Params.vectors.slaveAddr (tableEncoding Params.vectors.slaveAddr nbits w) with
  | .ok i => some i
  | .error _ => none

end Sys2Proof
end

