-- ==== Sys2Proof/Machine/State.lean ====
section
/-! DEFINITION. The state of the block as plain data (spec 10_state), the reasons a step can stop, and the machine
right after reset (70_reset_and_hazards R420). -/

namespace Sys2Proof.Machine

/-- Four like things, one for each channel (10_state R30). -/
structure Quad (α : Type) where
  c0 : α
  c1 : α
  c2 : α
  c3 : α
  deriving DecidableEq, Repr

/-! ### Names -/

/-- 00_scope R12, 10_state R30. -/
inductive ChannelState where
  | stopped | starting | running | stopping | overload | fault
  deriving DecidableEq, Repr

/-- 00_scope R12, 10_state R32. -/
inductive MasterState where
  | idle | coordinatedStart | running | emergencyStop
  deriving DecidableEq, Repr

/-- The registers of the system status block, in address order (20_memory R73). -/
inductive SysReg where
  | sysStatus | activeCount | activeMask | masterState | faultCode | transitionCount | statRequests | statResponses
  | statCrcErrors | statTimeouts | statIllegalFunction | statIllegalAddress | statIllegalValue | statSlaveFailure
  | statMalformed | statMaxResponseMs
  deriving DecidableEq, Repr

/-- The registers of the global control block, in address order (20_memory R75). -/
inductive GlobReg where
  | globalEnable | emergencyStop | systemReset
  deriving DecidableEq, Repr

/-- The registers of a channel block, in address order (20_memory R74). -/
inductive ChanReg where
  | startStop | amplitudeSetpoint | overloadReset | power | frequency | statusFlags | amplitudeActual | prevState
  | prevAmplitude
  deriving DecidableEq, Repr

/-- A defined register: one of the 55 slots of 10_state R20. -/
inductive Reg where
  | sys (r : SysReg)
  | glob (r : GlobReg)
  | chan (i : Chan) (r : ChanReg)
  deriving DecidableEq, Repr

/-- The six blocks of 20_memory R72. -/
inductive Block where
  | system
  | globals
  | channel (i : Chan)
  deriving DecidableEq, Repr

/-- The register classes of 10_state R21. -/
inductive RegClass where
  | ro | roDiag | rwBool | rwAmp | rwFull
  deriving DecidableEq, Repr

/-- The exception codes of 30_encoding R112. -/
inductive ExcCode where
  | illegalFunction | illegalAddress | illegalValue | slaveFailure
  deriving DecidableEq, Repr

/-! ### The register store (10_state R20, R22, R25 to R29) -/

structure SystemRegs where
  sysStatus : Word
  activeCount : Word
  activeMask : Word
  masterState : Word
  faultCode : Word
  transitionCount : Word
  statRequests : Word
  statResponses : Word
  statCrcErrors : Word
  statTimeouts : Word
  statIllegalFunction : Word
  statIllegalAddress : Word
  statIllegalValue : Word
  statSlaveFailure : Word
  statMalformed : Word
  statMaxResponseMs : Word
  deriving DecidableEq, Repr

structure GlobalRegs where
  globalEnable : Word
  emergencyStop : Word
  systemReset : Word
  deriving DecidableEq, Repr

structure ChannelRegs where
  startStop : Word
  amplitudeSetpoint : Word
  overloadReset : Word
  power : Word
  frequency : Word
  statusFlags : Word
  amplitudeActual : Word
  prevState : Word
  prevAmplitude : Word
  deriving DecidableEq, Repr

structure RegStore where
  system : SystemRegs
  globals : GlobalRegs
  channels : Quad ChannelRegs
  deriving DecidableEq, Repr

/-! ### Latches (10_state R24) -/

structure ChannelLatches where
  startStop : Option Word
  overloadReset : Option Word
  deriving DecidableEq, Repr

structure Latches where
  emergencyStop : Option Word
  systemReset : Option Word
  channels : Quad ChannelLatches
  deriving DecidableEq, Repr

/-! ### Channels, coordinator, statistics, link, watchdog, snapshot -/

/-- 10_state R30. -/
structure Channel where
  /-- `ch[i]` -/
  state : ChannelState
  /-- `start_wait[i]` -/
  startWait : Word
  /-- `confirmed[i]` -/
  confirmed : Bool
  /-- `inhibit[i]` -/
  inhibit : Bool
  deriving DecidableEq, Repr

/-- CoordinatorStatus, 10_state R32. -/
structure Coordinator where
  masterState : MasterState
  esActive : Bool
  activeMask : BitVec 4
  faultCode : Word
  transitionCount : U32
  deriving DecidableEq, Repr

/-- CommunicationStatistics, 10_state R35. -/
structure Stats where
  requestsReceived : U32
  responsesSent : U32
  crcErrors : U32
  timeoutErrors : U32
  illegalFunction : U32
  illegalAddress : U32
  illegalValue : U32
  slaveFailure : U32
  malformed : U32
  maxResponseMs : U32
  deriving DecidableEq, Repr

/-- 10_state R36. -/
structure Link where
  commArmed : Bool
  commFault : Bool
  lastValidMs : U32
  deriving DecidableEq, Repr

/-- 10_state R37. -/
structure Watchdog where
  lastKickMs : U32
  flag : Bool
  deriving DecidableEq, Repr

/-- 10_state R38. -/
structure Snapshot where
  valid : Bool
  state : Quad ChannelState
  amp : Quad Word
  deriving DecidableEq, Repr

/-- An entry of `rxq` (10_state R39). -/
structure RxEntry where
  bytes : List Byte
  /-- `t_arrive` -/
  arrivedMs : U32
  deriving DecidableEq, Repr

/-! ### Outside the block -/

/-- The coordinator operations a latch calls (41_register_access R210, R212, R213). -/
inductive RequestOp where
  | emergencyStop | clearEmergencyStop | unitReset | unitStart | unitStop
  deriving DecidableEq, Repr

/-- The events of the diagnostics stream (60_exceptions R405). `requestResult` has no channel index where the
operation takes none (log 10). DESIGN CHOICE (log 24): `transition` and `masterTransition` hold the enumerated states;
their numbers in the stream are the codes of 10_state R31, `ChannelState.code` and `MasterState.code`. -/
inductive Event where
  | transition (i : Chan) (old new : ChannelState)
  | masterTransition (old new : MasterState)
  | faultReported (i : Chan) (overload : Bool)
  | emergencyStopEntered
  | emergencyStopCleared
  | commTimeout
  | snapshotTaken
  | watchdogReset
  | requestResult (op : RequestOp) (i : Option Chan) (result : Bool)
  deriving DecidableEq, Repr

/-- One call of `writeOutput` (60_exceptions R407). -/
inductive OutputCall where
  | run (i : Chan) (on : Bool)
  | amplitude (i : Chan) (value : Word)
  deriving DecidableEq, Repr

/-- What stands outside the block and is kept by every reset (log 19): the output streams, the answer to the host,
and the MODEL's own fields. -/
structure Env where
  /-- the diagnostics stream, oldest event first (60_exceptions R405) -/
  diag : List Event
  /-- the `writeOutput` calls made, oldest first (60_exceptions R407, log 11) -/
  outputs : List OutputCall
  /-- the Bool the last command word answered (30_encoding R116, log 9) -/
  cmdResult : Option Bool
  /-- `t_arr` of the frame in hand in phase E (40_frame_codec R150, log 8) -/
  arrivedMs : U32
  /-- agent steps already chosen, the next first (log 3) -/
  inbox : List Input
  /-- how many agent steps were free choices: the argument of `Config.agentStep` (log 3) -/
  turn : Nat
  /-- how many phases D have run: the argument of the input samples (log 2) -/
  sampleNo : Nat
  deriving DecidableEq, Repr

/-! ### The state -/

/-- The whole machine. INVENTORY.md lists each element with its rule and reset value. -/
structure State where
  /-- the OPEN parameters (00_scope R5, 70_reset_and_hazards R423, log 1) -/
  params : Params
  /-- the register store (10_state R20) -/
  regs : RegStore
  /-- the write latches (10_state R24) -/
  latches : Latches
  /-- the four channel state machines (10_state R30) -/
  channels : Quad Channel
  /-- CoordinatorStatus (10_state R32) -/
  coord : Coordinator
  /-- CommunicationStatistics (10_state R35) -/
  stats : Stats
  /-- link supervision (10_state R36) -/
  link : Link
  /-- the watchdog (10_state R37) -/
  wdt : Watchdog
  /-- the previous-state snapshot (10_state R38) -/
  snap : Snapshot
  /-- the frame queue (10_state R39) -/
  rxq : List RxEntry
  /-- the transmit queue (10_state R39) -/
  txq : List (List Byte)
  /-- the overload edges (10_state R40) -/
  ovlEdge : Quad Bool
  /-- the millisecond count (10_state R41) -/
  nowMs : U32
  /-- the RUN outputs (10_state R42) -/
  runOut : Quad Bool
  /-- the AMPLITUDE outputs (10_state R42) -/
  ampOut : Quad Word
  /-- outside the block -/
  env : Env
  deriving DecidableEq, Repr

/-- Why the machine stops with a fault. -/
inductive Fault where
  /-- An address passed the range check of 41_register_access R183 and has no slot: "a fault of the model"
  (60_exceptions R375). Raised by the register dispatcher only; it cannot happen (Laws/Registers.lean), and stopping is
  safe. Log 14. -/
  | registerWithoutSlot
  deriving DecidableEq, Repr

/-- Why an operation has no next state and no fault. -/
inductive Refusal where
  /-- An instruction of the opcode table without a meaning. No arm raises it. Safe. -/
  | notModelled (mnemonic : String)
  deriving DecidableEq, Repr

/-! ### Reset (70_reset_and_hazards R420) -/

/-- A channel block after a cold reset (10_state R26, R27, R29). -/
def ChannelRegs.reset : ChannelRegs where
  startStop := 0
  amplitudeSetpoint := 20
  overloadReset := 0
  power := 0
  frequency := 0
  statusFlags := 0
  amplitudeActual := 0
  prevState := 0xFFFF
  prevAmplitude := 0

/-- The register store after a cold reset (10_state R22, R25 to R29). -/
def RegStore.reset : RegStore where
  system := ⟨0, 0, 0, 0, 0, 0, 0, 0, 0, 0, 0, 0, 0, 0, 0, 0⟩
  globals := ⟨0, 0, 0⟩
  channels := ⟨.reset, .reset, .reset, .reset⟩

/-- No latch pending (10_state R24). -/
def Latches.reset : Latches where
  emergencyStop := none
  systemReset := none
  channels := ⟨⟨none, none⟩, ⟨none, none⟩, ⟨none, none⟩, ⟨none, none⟩⟩

/-- 10_state R30. -/
def Channel.reset : Channel where
  state := .stopped
  startWait := 0
  confirmed := false
  inhibit := false

/-- 10_state R32. -/
def Coordinator.reset : Coordinator where
  masterState := .idle
  esActive := false
  activeMask := 0
  faultCode := 0
  transitionCount := 0

/-- 10_state R35. -/
def Stats.reset : Stats := ⟨0, 0, 0, 0, 0, 0, 0, 0, 0, 0⟩

/-- 10_state R38. -/
def Snapshot.reset : Snapshot where
  valid := false
  state := ⟨.stopped, .stopped, .stopped, .stopped⟩
  amp := ⟨0, 0, 0, 0⟩

/-- The environment when the block has just been powered on: the eight `writeOutput` calls of R420 have been made,
and nothing else has been sent, answered or chosen. -/
def Env.reset : Env where
  diag := []
  outputs := [.run 0 false, .amplitude 0 20, .run 1 false, .amplitude 1 20, .run 2 false, .amplitude 2 20,
    .run 3 false, .amplitude 3 20]
  cmdResult := none
  arrivedMs := 0
  inbox := []
  turn := 0
  sampleNo := 0

/-- The block right after POWER_ON (70_reset_and_hazards R420), for any parameters. -/
def State.resetWith (p : Params) : State where
  params := p
  regs := .reset
  latches := .reset
  channels := ⟨.reset, .reset, .reset, .reset⟩
  coord := .reset
  stats := .reset
  link := ⟨false, false, 0⟩
  wdt := ⟨0, false⟩
  snap := .reset
  rxq := []
  txq := []
  ovlEdge := ⟨false, false, false, false⟩
  nowMs := 0
  runOut := ⟨false, false, false, false⟩
  ampOut := ⟨20, 20, 20, 20⟩
  env := .reset

/-- The machine right after reset. The parameters are those of the test vectors, a DESIGN CHOICE (log 1). -/
def State.reset : State := State.resetWith Params.vectors

end Sys2Proof.Machine
end

