-- ==== Sys2Proof/Machine/Operands.lean ====
section
/-! DEFINITION. Operand forms: channel indices and masks of command words, the register address map, register classes
and the value conversion of a write (spec 20_memory R72 to R76, 30_encoding R116, 41_register_access R182 to R187,
43_coordinator R283). -/

namespace Sys2Proof.Machine

/-! ### One thing per channel -/

/-- Element `i`. -/
def Quad.get {α : Type} (q : Quad α) (i : Chan) : α :=
  match i with
  | 0 => q.c0
  | 1 => q.c1
  | 2 => q.c2
  | 3 => q.c3

/-- Element `i` replaced. -/
def Quad.set {α : Type} (q : Quad α) (i : Chan) (a : α) : Quad α :=
  match i with
  | 0 => { q with c0 := a }
  | 1 => { q with c1 := a }
  | 2 => { q with c2 := a }
  | 3 => { q with c3 := a }

/-- The four elements given by index. -/
def Quad.ofFn {α : Type} (f : Chan → α) : Quad α := ⟨f 0, f 1, f 2, f 3⟩

/-! ### Operands of command words -/

/-- The channel an index names, or none above 3 (43_coordinator R283). -/
def chanOf {n : Nat} (idx : BitVec n) : Option Chan :=
  if h : idx.toNat < 4 then some ⟨idx.toNat, h⟩ else none

/-- Bit `i` of a channel mask is channel `i` (00_scope R11). -/
def maskBit (m : BitVec 4) (i : Chan) : Bool := m.getLsbD i.val

/-- The mask whose bit `i` is element `i`. -/
def maskOfQuad (q : Quad Bool) : BitVec 4 :=
  BitVec.ofBool q.c3 ++ BitVec.ofBool q.c2 ++ BitVec.ofBool q.c1 ++ BitVec.ofBool q.c0

/-! ### The register address map (20_memory R72 to R76) -/

/-- The system status block in address order (R73). -/
def sysTable : List SysReg :=
  [.sysStatus, .activeCount, .activeMask, .masterState, .faultCode, .transitionCount, .statRequests, .statResponses,
    .statCrcErrors, .statTimeouts, .statIllegalFunction, .statIllegalAddress, .statIllegalValue, .statSlaveFailure,
    .statMalformed, .statMaxResponseMs]

/-- The global control block in address order (R75). -/
def globTable : List GlobReg := [.globalEnable, .emergencyStop, .systemReset]

/-- A channel block in address order (R74). -/
def chanTable : List ChanReg :=
  [.startStop, .amplitudeSetpoint, .overloadReset, .power, .frequency, .statusFlags, .amplitudeActual, .prevState,
    .prevAmplitude]

/-- `CH_BASE(i)` (R74). -/
def chBase (i : Chan) : Nat := Config.layout.chBase + Config.layout.chStride * i.val

/-- The first address of a block. -/
def Block.base : Block → Nat
  | .system => Config.layout.sysBase
  | .globals => Config.layout.globBase
  | .channel i => chBase i

/-- The registers of a block in address order. -/
def Block.table : Block → List Reg
  | .system => sysTable.map .sys
  | .globals => globTable.map .glob
  | .channel i => chanTable.map (.chan i)

/-- The six blocks of R72. -/
def blocks : List Block := [.system, .globals, .channel 0, .channel 1, .channel 2, .channel 3]

/-- Whether a block contains an address. -/
def Block.contains (b : Block) (a : Nat) : Bool :=
  decide (b.base ≤ a) && decide (a < b.base + b.table.length)

/-- `blockOf(a)` (41_register_access R182). -/
def blockOf (a : Nat) : Option Block := blocks.find? (·.contains a)

/-- The register at an address, or none for an undefined address (20_memory R76). -/
def regAt (a : Nat) : Option Reg :=
  match blockOf a with
  | some b => b.table[a - b.base]?
  | none => none

/-- `inOneBlock(a, q)` (41_register_access R182); addresses do not wrap. -/
def inOneBlock (a : Word) (q : Nat) : Bool :=
  decide (1 ≤ q) && decide (a.toNat + q - 1 ≤ 0xFFFF) && (blockOf a.toNat).isSome &&
    blockOf a.toNat == blockOf (a.toNat + q - 1)

/-- The registers at `q` consecutive addresses from `a`, none if one has no slot. -/
def regsFrom (a : Nat) : Nat → Option (List Reg)
  | 0 => some []
  | q + 1 =>
    match regAt a, regsFrom (a + 1) q with
    | some r, some rs => some (r :: rs)
    | _, _ => none

/-! ### Classes and value conversion -/

/-- `class(a)` (10_state R21, 20_memory R73 to R75). -/
def Reg.cls : Reg → RegClass
  | .sys _ => .ro
  | .glob _ => .rwFull
  | .chan _ .startStop => .rwBool
  | .chan _ .amplitudeSetpoint => .rwAmp
  | .chan _ .overloadReset => .rwBool
  | .chan _ .power => .ro
  | .chan _ .frequency => .ro
  | .chan _ .statusFlags => .ro
  | .chan _ .amplitudeActual => .ro
  | .chan _ .prevState => .roDiag
  | .chan _ .prevAmplitude => .roDiag

/-- `clamp(v, lo, hi) = min(max(v, lo), hi)` (00_scope R8). -/
def clamp (v lo hi : Word) : Word :=
  let m := if v.toNat < lo.toNat then lo else v
  if hi.toNat < m.toNat then hi else m

/-- What a write of a value does to a register (41_register_access R187). -/
inductive Conv where
  /-- store this value -/
  | store (v : Word)
  /-- illegal value, code 3 -/
  | illegal
  /-- accept and store nothing (R188) -/
  | ignored
  deriving DecidableEq, Repr

/-- `conv(a, v)` (41_register_access R187). A write to an `RO` register never gets here (R186). -/
def conv (r : Reg) (v : Word) : Conv :=
  match r.cls with
  | .rwBool => if v = 0 ∨ v = 1 then .store v else .illegal
  | .rwAmp => .store (clamp v Config.ampMin Config.ampMax)
  | .rwFull => .store v
  | .roDiag => .ignored
  | .ro => .ignored

/-- The values of a write-multiple: `be16(data, 2k)` for `k = 0 .. q-1` (41_register_access R200). -/
def valuesOf (data : List Byte) (q : Nat) : List Word :=
  (List.range q).map fun k => be16 data (2 * k)

end Sys2Proof.Machine
end

