-- ==== Sys2Proof/Machine/Flags.lean ====
section
/-! DEFINITION. Codes of the enumerations, the two status bit fields, saturating and modular counters (spec 10_state
R22, R23, R28, R31 to R35, 60_exceptions R401, R402). -/

namespace Sys2Proof.Machine

/-! ### Codes (10_state R31, 30_encoding R112) -/

/-- The register code of a channel state. -/
def ChannelState.code : ChannelState → Word
  | .stopped => 0
  | .starting => 1
  | .running => 2
  | .stopping => 3
  | .overload => 4
  | .fault => 5

/-- The register code of a master state. -/
def MasterState.code : MasterState → Word
  | .idle => 0
  | .coordinatedStart => 1
  | .running => 2
  | .emergencyStop => 3

/-- `EXC_CODE`. -/
def ExcCode.code : ExcCode → Byte
  | .illegalFunction => 1
  | .illegalAddress => 2
  | .illegalValue => 3
  | .slaveFailure => 4

/-! ### Channel predicates -/

/-- `s ∈ {Starting, Running}` (10_state R34). -/
def ChannelState.isActive (s : ChannelState) : Bool := s == .starting || s == .running

/-- `s ∈ {Overload, Fault}`. -/
def ChannelState.isFaulted (s : ChannelState) : Bool := s == .overload || s == .fault

/-! ### Counters -/

/-- `min(c + 1, 2^32 - 1)` (10_state R32). -/
def satIncU32 (c : U32) : U32 := if c.toNat + 1 ≤ 0xFFFFFFFF then c + 1 else 0xFFFFFFFF

/-- `min(c + 1, 0xFFFF)` (10_state R30). -/
def satIncU16 (c : Word) : Word := if c.toNat + 1 ≤ 0xFFFF then c + 1 else 0xFFFF

/-- `max` of two u32 (40_frame_codec R168). -/
def maxU32 (a b : U32) : U32 := if a.toNat < b.toNat then b else a

/-- `(now - t) mod 2^32` (10_state R41). -/
def elapsedMs (now t : U32) : U32 := now - t

/-- `v[15:0]` of a u32 counter (10_state R22). -/
def low16 (v : U32) : Word := v.setWidth 16

/-- `min(v, 0xFFFF)` of a u32 (70_reset_and_hazards R433). -/
def saturate16 (v : U32) : Word := if 0xFFFF < v.toNat then 0xFFFF else v.setWidth 16

/-- `zext_16(popcount(m))` (10_state R22). -/
def popcount16 (m : BitVec 4) : Word :=
  (BitVec.ofBool (maskBit m 0)).setWidth 16 + (BitVec.ofBool (maskBit m 1)).setWidth 16 +
    (BitVec.ofBool (maskBit m 2)).setWidth 16 + (BitVec.ofBool (maskBit m 3)).setWidth 16

/-! ### Bit fields -/

/-- A Bool as a 16-bit value shifted to bit `k`. -/
def bitAt (b : Bool) (k : Nat) : Word := (BitVec.ofBool b).setWidth 16 <<< k

/-- `SYS_STATUS` (10_state R23): bit 0 COMM_FAULT, 1 ESTOP_ACTIVE, 2 WDT_RESET, 3 ANY_UNIT_FAULT; the rest 0. -/
def sysStatusWord (anyFault wdtFlag esActive commFault : Bool) : Word :=
  bitAt anyFault 3 ||| bitAt wdtFlag 2 ||| bitAt esActive 1 ||| bitAt commFault 0

/-- `STATUS_FLAGS(i)` (10_state R28): bit 0 RUNNING, 1 OVERLOAD, 2 FREQ_LOCK, 3 AMPLITUDE_FAULT, 4 COMM_FAULT, 5 FAULT,
6 STARTING, 7 STOPPING; the rest 0. -/
def statusFlagsWord (st : ChannelState) (commFault ampFault freqLock : Bool) : Word :=
  bitAt (st == .stopping) 7 ||| bitAt (st == .starting) 6 ||| bitAt (st == .fault) 5 ||| bitAt commFault 4 |||
    bitAt ampFault 3 ||| bitAt freqLock 2 ||| bitAt (st == .overload) 1 ||| bitAt (st == .running) 0

end Sys2Proof.Machine
end

