-- ==== Sys2Proof/Machine/Ops.lean ====
section
/-! DEFINITION. The named operations over the state that several instructions share: the register store, the output
streams, the helpers of the channel state machines and the coordinator, status reflection, the two resets, and the
entries and returns that stand in this block for exceptions (spec 60_exceptions R390 to R397). -/

namespace Sys2Proof.Machine

/-! ### The register store: `reg[a]` and `reg[a] <- v` (00_scope R9) -/

def SystemRegs.get (t : SystemRegs) : SysReg → Word
  | .sysStatus => t.sysStatus
  | .activeCount => t.activeCount
  | .activeMask => t.activeMask
  | .masterState => t.masterState
  | .faultCode => t.faultCode
  | .transitionCount => t.transitionCount
  | .statRequests => t.statRequests
  | .statResponses => t.statResponses
  | .statCrcErrors => t.statCrcErrors
  | .statTimeouts => t.statTimeouts
  | .statIllegalFunction => t.statIllegalFunction
  | .statIllegalAddress => t.statIllegalAddress
  | .statIllegalValue => t.statIllegalValue
  | .statSlaveFailure => t.statSlaveFailure
  | .statMalformed => t.statMalformed
  | .statMaxResponseMs => t.statMaxResponseMs

def SystemRegs.set (t : SystemRegs) (r : SysReg) (v : Word) : SystemRegs :=
  match r with
  | .sysStatus => { t with sysStatus := v }
  | .activeCount => { t with activeCount := v }
  | .activeMask => { t with activeMask := v }
  | .masterState => { t with masterState := v }
  | .faultCode => { t with faultCode := v }
  | .transitionCount => { t with transitionCount := v }
  | .statRequests => { t with statRequests := v }
  | .statResponses => { t with statResponses := v }
  | .statCrcErrors => { t with statCrcErrors := v }
  | .statTimeouts => { t with statTimeouts := v }
  | .statIllegalFunction => { t with statIllegalFunction := v }
  | .statIllegalAddress => { t with statIllegalAddress := v }
  | .statIllegalValue => { t with statIllegalValue := v }
  | .statSlaveFailure => { t with statSlaveFailure := v }
  | .statMalformed => { t with statMalformed := v }
  | .statMaxResponseMs => { t with statMaxResponseMs := v }

def GlobalRegs.get (t : GlobalRegs) : GlobReg → Word
  | .globalEnable => t.globalEnable
  | .emergencyStop => t.emergencyStop
  | .systemReset => t.systemReset

def GlobalRegs.set (t : GlobalRegs) (r : GlobReg) (v : Word) : GlobalRegs :=
  match r with
  | .globalEnable => { t with globalEnable := v }
  | .emergencyStop => { t with emergencyStop := v }
  | .systemReset => { t with systemReset := v }

def ChannelRegs.get (t : ChannelRegs) : ChanReg → Word
  | .startStop => t.startStop
  | .amplitudeSetpoint => t.amplitudeSetpoint
  | .overloadReset => t.overloadReset
  | .power => t.power
  | .frequency => t.frequency
  | .statusFlags => t.statusFlags
  | .amplitudeActual => t.amplitudeActual
  | .prevState => t.prevState
  | .prevAmplitude => t.prevAmplitude

def ChannelRegs.set (t : ChannelRegs) (r : ChanReg) (v : Word) : ChannelRegs :=
  match r with
  | .startStop => { t with startStop := v }
  | .amplitudeSetpoint => { t with amplitudeSetpoint := v }
  | .overloadReset => { t with overloadReset := v }
  | .power => { t with power := v }
  | .frequency => { t with frequency := v }
  | .statusFlags => { t with statusFlags := v }
  | .amplitudeActual => { t with amplitudeActual := v }
  | .prevState => { t with prevState := v }
  | .prevAmplitude => { t with prevAmplitude := v }

/-- The value of a register. -/
def RegStore.get (t : RegStore) : Reg → Word
  | .sys r => t.system.get r
  | .glob r => t.globals.get r
  | .chan i r => (t.channels.get i).get r

/-- One register replaced. -/
def RegStore.set (t : RegStore) (r : Reg) (v : Word) : RegStore :=
  match r with
  | .sys r => { t with system := t.system.set r v }
  | .glob r => { t with globals := t.globals.set r v }
  | .chan i r => { t with channels := t.channels.set i ((t.channels.get i).set r v) }

/-- `reg[a]` by name. -/
def State.reg (s : State) (r : Reg) : Word := s.regs.get r

/-- `reg[a] <- v` by name. -/
def State.setReg (s : State) (r : Reg) (v : Word) : State := { s with regs := s.regs.set r v }

/-! ### Latches (10_state R24) -/

/-- `latch[r]`; a register without a latch has none pending. -/
def Latches.get (l : Latches) : Reg → Option Word
  | .glob .emergencyStop => l.emergencyStop
  | .glob .systemReset => l.systemReset
  | .chan i .startStop => (l.channels.get i).startStop
  | .chan i .overloadReset => (l.channels.get i).overloadReset
  | _ => none

/-- `latch[r] <- o`; a register without a latch is left alone. -/
def Latches.set (l : Latches) (r : Reg) (o : Option Word) : Latches :=
  match r with
  | .glob .emergencyStop => { l with emergencyStop := o }
  | .glob .systemReset => { l with systemReset := o }
  | .chan i .startStop => { l with channels := l.channels.set i { l.channels.get i with startStop := o } }
  | .chan i .overloadReset => { l with channels := l.channels.set i { l.channels.get i with overloadReset := o } }
  | _ => l

/-- The registers that have a latch (10_state R24). -/
def Reg.hasLatch : Reg → Bool
  | .glob .emergencyStop => true
  | .glob .systemReset => true
  | .chan _ .startStop => true
  | .chan _ .overloadReset => true
  | _ => false

/-- `latch[r] <- o` in the state. -/
def State.setLatch (s : State) (r : Reg) (o : Option Word) : State := { s with latches := s.latches.set r o }

/-! ### Output streams and the answer to the host -/

/-- `emit(ev)` (60_exceptions R405). -/
def State.emit (s : State) (ev : Event) : State := { s with env := { s.env with diag := s.env.diag ++ [ev] } }

/-- Calls of `writeOutput`, in order (60_exceptions R407). -/
def State.callOutputs (s : State) (cs : List OutputCall) : State :=
  { s with env := { s.env with outputs := s.env.outputs ++ cs } }

/-- `return b` of a command-port operation (00_scope R9, 43_coordinator R280). -/
def State.answer (s : State) (b : Bool) : State := { s with env := { s.env with cmdResult := some b } }

/-- The answer of a command word: the operation's state with its Bool. -/
def answered (r : State × Bool) : State := r.1.answer r.2

/-- `for i in 0..3: f(i)` in ascending order. -/
def forChannels (f : Chan → State → State) (s : State) : State := f 3 (f 2 (f 1 (f 0 s)))

/-! ### Helpers of the channel state machines and the coordinator -/

/-- Channel `i` replaced. -/
def State.setChannel (s : State) (i : Chan) (c : Channel) : State := { s with channels := s.channels.set i c }

/-- `ch[i]`. -/
def State.ch (s : State) (i : Chan) : ChannelState := (s.channels.get i).state

/-- `transition_count <- min(transition_count + 1, 2^32 - 1)` (10_state R32). -/
def State.countTransition (s : State) : State :=
  { s with coord := { s.coord with transitionCount := satIncU32 s.coord.transitionCount } }

/-- `fault_code <- v` (10_state R33). -/
def State.setFaultCode (s : State) (v : Word) : State := { s with coord := { s.coord with faultCode := v } }

/-- `setState(i, s)` (42_channel_fsm R230), the only writer of `ch[i]`. -/
def setState (i : Chan) (new : ChannelState) (s : State) : State :=
  if s.ch i = new then s
  else ((s.setChannel i { s.channels.get i with state := new }).countTransition).emit (.transition i (s.ch i) new)

/-- `start_wait[i] <- 0; confirmed[i] <- false`. -/
def clearStart (i : Chan) (s : State) : State :=
  s.setChannel i { s.channels.get i with startWait := 0, confirmed := false }

/-- `{i | ch[i] ∈ {Starting, Running}}` as a mask (10_state R34). -/
def activeMaskOf (s : State) : BitVec 4 := maskOfQuad (Quad.ofFn fun i => (s.ch i).isActive)

/-- `recomputeActive()` (43_coordinator R281). -/
def recomputeActive (s : State) : State := { s with coord := { s.coord with activeMask := activeMaskOf s } }

/-- Some channel satisfies a predicate. -/
def someChannel (p : ChannelState → Bool) (s : State) : Bool := p (s.ch 0) || p (s.ch 1) || p (s.ch 2) || p (s.ch 3)

/-- `derive()` (43_coordinator R282). -/
def derive (s : State) : MasterState :=
  if s.coord.esActive then .emergencyStop
  else if someChannel (· == .starting) s then .coordinatedStart
  else if someChannel (· == .running) s then .running
  else .idle

/-- `setMaster(s)` (43_coordinator R282). -/
def setMaster (new : MasterState) (s : State) : State :=
  if s.coord.masterState = new then s
  else
    (({ s with coord := { s.coord with masterState := new } } : State).countTransition).emit
      (.masterTransition s.coord.masterState new)

/-- `chForceStop(i)` (42_channel_fsm R238). -/
def chForceStop (i : Chan) (s : State) : State :=
  if (s.ch i).isActive then recomputeActive (clearStart i (setState i .stopping s)) else s

/-- `chFault(i, isOverload)` (42_channel_fsm R233). -/
def chFault (i : Chan) (ov : Bool) (s : State) : State :=
  recomputeActive (clearStart i (setState i (if ov then .overload else .fault) s))

/-- `chReset(i)` (42_channel_fsm R234). -/
def chReset (i : Chan) (s : State) : State × Bool :=
  if (s.ch i).isFaulted then (recomputeActive (clearStart i (setState i .stopped s)), true) else (s, false)

/-! ### Statistics and the response path (40_frame_codec R160, R165 to R168) -/

/-- A frame that passed the length, address and CRC checks is a request (R155). -/
def countRequest (s : State) : State :=
  { s with stats := { s.stats with requestsReceived := s.stats.requestsReceived + 1 } }

/-- `countException(code)` (R160). -/
def countException (code : ExcCode) (s : State) : State :=
  match code with
  | .illegalFunction => { s with stats := { s.stats with illegalFunction := s.stats.illegalFunction + 1 } }
  | .illegalAddress => { s with stats := { s.stats with illegalAddress := s.stats.illegalAddress + 1 } }
  | .illegalValue => { s with stats := { s.stats with illegalValue := s.stats.illegalValue + 1 } }
  | .slaveFailure => { s with stats := { s.stats with slaveFailure := s.stats.slaveFailure + 1 } }

/-- `stats.malformed <- stats.malformed + 1`. -/
def countMalformed (s : State) : State := { s with stats := { s.stats with malformed := s.stats.malformed + 1 } }

/-- `stats.crc_errors <- stats.crc_errors + 1`. -/
def countCrcError (s : State) : State := { s with stats := { s.stats with crcErrors := s.stats.crcErrors + 1 } }

/-- The counters of a dropped frame (R160, 60_exceptions R373). -/
def dropFrame (d : FrameDrop) (s : State) : State :=
  match d with
  | .badLength => countMalformed s
  | .otherStation => s
  | .crcMismatch => countCrcError s
  | .wrongLength => countMalformed (countRequest s)

/-- `normalResponse(fc, payload)` (R165, R166). -/
def normalResponse (slaveAddr fc : Byte) (payload : List Byte) : List Byte := withCrc ([slaveAddr, fc] ++ payload)

/-- `exceptionResponse(fc, code)` (R166, R167). -/
def exceptionResponse (slaveAddr fc : Byte) (code : ExcCode) : List Byte :=
  withCrc [slaveAddr, fc ||| 0x80, code.code]

/-- The link refresh (R162). -/
def refreshLink (s : State) : State :=
  { s with link := { commArmed := true, commFault := false, lastValidMs := s.nowMs } }

/-- `send(resp, t_arr)` (R168), with `t_arr` the arrival time of the frame in hand. -/
def send (resp : List Byte) (s : State) : State :=
  refreshLink
    { s with
      txq := s.txq ++ [resp]
      stats :=
        { s.stats with
          responsesSent := s.stats.responsesSent + 1
          maxResponseMs := maxU32 s.stats.maxResponseMs (elapsedMs s.nowMs s.env.arrivedMs) } }

/-! ### Status reflection (70_reset_and_hazards R433) -/

/-- The input samples of one channel (60_exceptions R404). -/
structure Sample where
  power : Word
  frequency : Word
  amplitude : Word
  freqLock : Bool
  ampFault : Bool
  deriving DecidableEq, Repr

/-- The samples of the n-th phase D: free values (log 2). -/
def sampleAt (n : Nat) (i : Chan) : Sample where
  power := Config.power n i
  frequency := Config.frequency n i
  amplitude := Config.amplitude n i
  freqLock := Config.freqLock n i
  ampFault := Config.ampFault n i

/-- The samples a reset takes: every analog input 0, every level false (decision D43). -/
def zeroSample (_ : Chan) : Sample := ⟨0, 0, 0, false, false⟩

/-- The system status block written from the state (R433). -/
def reflectSystem (s : State) : SystemRegs where
  sysStatus := sysStatusWord (someChannel ChannelState.isFaulted s) s.wdt.flag s.coord.esActive s.link.commFault
  activeCount := popcount16 s.coord.activeMask
  activeMask := s.coord.activeMask.setWidth 16
  masterState := s.coord.masterState.code
  faultCode := s.coord.faultCode
  transitionCount := low16 s.coord.transitionCount
  statRequests := low16 s.stats.requestsReceived
  statResponses := low16 s.stats.responsesSent
  statCrcErrors := low16 s.stats.crcErrors
  statTimeouts := low16 s.stats.timeoutErrors
  statIllegalFunction := low16 s.stats.illegalFunction
  statIllegalAddress := low16 s.stats.illegalAddress
  statIllegalValue := low16 s.stats.illegalValue
  statSlaveFailure := low16 s.stats.slaveFailure
  statMalformed := low16 s.stats.malformed
  statMaxResponseMs := saturate16 s.stats.maxResponseMs

/-- The status sub-block of channel `i` written from the state and a sample (R433); the control sub-block stays. -/
def reflectChannel (s : State) (smp : Sample) (i : Chan) : ChannelRegs :=
  { s.regs.channels.get i with
    power := smp.power
    frequency := smp.frequency
    statusFlags := statusFlagsWord (s.ch i) s.link.commFault smp.ampFault smp.freqLock
    amplitudeActual := smp.amplitude
    prevState := if s.snap.valid then (s.snap.state.get i).code else 0xFFFF
    prevAmplitude := if s.snap.valid then s.snap.amp.get i else 0 }

/-- `reflect()` (R433) with the given samples. -/
def reflectWith (smp : Chan → Sample) (s : State) : State :=
  { s with
    regs :=
      { s.regs with
        system := reflectSystem s
        channels := Quad.ofFn fun i => reflectChannel s (smp i) i } }

/-! ### Resets (70_reset_and_hazards R420, R421) -/

/-- The `writeOutput` calls that make the outputs of every channel what the state holds (60_exceptions R407). -/
def outputCalls (s : State) : List OutputCall :=
  [.run 0 (s.runOut.get 0), .amplitude 0 (s.ampOut.get 0), .run 1 (s.runOut.get 1), .amplitude 1 (s.ampOut.get 1),
    .run 2 (s.runOut.get 2), .amplitude 2 (s.ampOut.get 2), .run 3 (s.runOut.get 3), .amplitude 3 (s.ampOut.get 3)]

/-- Every element of the block at its cold-reset value; the parameters and what stands outside the block stay. -/
def coldState (s : State) : State := { State.resetWith s.params with env := s.env }

/-- `POWER_ON` (R420): the cold values, the outputs written, the status registers reflected with zero inputs. -/
def coldReset (s : State) : State :=
  let t := coldState s
  reflectWith zeroSample (t.callOutputs (outputCalls t))

/-- `watchdogReset()` (R421): the cold reset, but the snapshot stays and `wdt_flag` is set. -/
def watchdogReset (s : State) : State :=
  let t := { coldState s with snap := s.snap, wdt := { lastKickMs := 0, flag := true } }
  reflectWith zeroSample (t.callOutputs (outputCalls t))

/-! ### Entries and returns (60_exceptions R390 to R397) -/

/-- TAKING AN EXCEPTION on the wire (R390): the request is discarded, its code is counted, and the exception response
is sent. Nothing is saved; no register, latch or state machine changes. There is nothing to return from (R395). -/
def takeException (fc : Byte) (code : ExcCode) (s : State) : State :=
  send (exceptionResponse s.params.slaveAddr fc code) (countException code s)

/-- `takeSnapshot()` (44_safety_supervisor R350), the only saved state of any entry (R391). -/
def takeSnapshot (s : State) : State :=
  ({ s with
      snap :=
        { valid := true
          state := Quad.ofFn fun i => s.ch i
          amp := Quad.ofFn fun i => s.reg (.chan i .amplitudeSetpoint) } } : State).emit .snapshotTaken

/-- The snapshot of a shutdown: taken only if no emergency stop is active (44_safety_supervisor R352). -/
def snapshotOnEntry (s : State) : State := if s.coord.esActive then s else takeSnapshot s

/-- `es_active <- b`. -/
def setEsActive (b : Bool) (s : State) : State := { s with coord := { s.coord with esActive := b } }

/-- `emergencyStop()` (43_coordinator R292, 44_safety_supervisor R351): emergency-stop entry (R391). It answers true. -/
def emergencyStop (s : State) : State :=
  (recomputeActive
    (setMaster .emergencyStop (forChannels chForceStop (setEsActive true (snapshotOnEntry s))))).emit
      .emergencyStopEntered

/-- `clearEmergencyStop()` (43_coordinator R294): the return from an emergency stop (R396). -/
def clearEmergencyStop (s : State) : State × Bool :=
  if !s.coord.esActive || s.link.commFault then (s, false)
  else
    let t := setEsActive false s
    ((setMaster (derive t) t).emit .emergencyStopCleared, true)

/-- `reportUnitFault(i, isOverload)` on a channel that exists (43_coordinator R291): fault entry (R392). -/
def faultEntry (i : Chan) (ov : Bool) (s : State) : State :=
  (recomputeActive ((chFault i ov s).setFaultCode (if ov then 1 else 2))).emit (.faultReported i ov)

/-- `resetUnit(i)` on a channel that exists (43_coordinator R295): the return from a fault (R397). -/
def faultReturn (i : Chan) (s : State) : State × Bool :=
  let r := chReset i s
  (recomputeActive r.1, r.2)

/-- The watchdog-reset entry (R393, 44_safety_supervisor R345). The stream tells of it before the reset. -/
def watchdogEntry (s : State) : State := watchdogReset ((snapshotOnEntry s).emit .watchdogReset)

/-! ### The next agent step (00_scope R7, 60_exceptions R386) -/

/-- The agent step that comes next, and the state without it: the head of the inbox, and where that is empty a free
choice (log 3). -/
def nextInput (s : State) : Input × State :=
  match s.env.inbox with
  | x :: rest => (x, { s with env := { s.env with inbox := rest } })
  | [] => (Config.agentStep s.env.turn, { s with env := { s.env with turn := s.env.turn + 1 } })

/-- A table word where the next step takes it up (log 7): a command word at the head of the inbox; a wire request at
the head of `rxq`, with a tick at the head of the inbox to process it. -/
def placeTableWord (s : State) (nbits w : Nat) : State :=
  match tableEncoding s.params.slaveAddr nbits w with
  | .input x => { s with env := { s.env with inbox := x :: s.env.inbox } }
  | .wire bytes =>
    { s with
      rxq := ⟨bytes, s.nowMs⟩ :: s.rxq.tail
      env := { s.env with inbox := .tick :: s.env.inbox } }

end Sys2Proof.Machine
end

