-- ==== Sys2Proof/Machine/Channel.lean ====
section
/-! DEFINITION. The primitives of one channel state machine that only the coordinator calls (spec 42_channel_fsm R231,
R232, R235 to R237). `setState`, `chFault`, `chReset` and `chForceStop` stand in Machine/Ops.lean. -/

namespace Sys2Proof.Machine

/-- `chStart(i)` (R231): a start is accepted from Stopped, a no-op in Starting and Running, rejected elsewhere. -/
def chStart (i : Chan) (s : State) : State × Bool :=
  match s.ch i with
  | .stopped => (recomputeActive (clearStart i (setState i .starting s)), true)
  | .starting => (s, true)
  | .running => (s, true)
  | .stopping => (s, false)
  | .overload => (s, false)
  | .fault => (s, false)

/-- `chStop(i)` (R232): Starting and Running go to Stopping, elsewhere a no-op; always true. -/
def chStop (i : Chan) (s : State) : State × Bool :=
  match s.ch i with
  | .starting => (recomputeActive (clearStart i (setState i .stopping s)), true)
  | .running => (recomputeActive (clearStart i (setState i .stopping s)), true)
  | .stopping => (s, true)
  | .stopped => (s, true)
  | .overload => (s, true)
  | .fault => (s, true)

/-- `chConfirm(i)` (R235): remembered only while the channel is Starting. -/
def chConfirm (i : Chan) (s : State) : State × Bool :=
  match s.ch i with
  | .starting => (s.setChannel i { s.channels.get i with confirmed := true }, true)
  | _ => (s, false)

/-- `chSetInhibit(i, b)` (R237). -/
def chSetInhibit (i : Chan) (b : Bool) (s : State) : State × Bool :=
  (s.setChannel i { s.channels.get i with inhibit := b }, true)

/-- `start_wait[i] <- v`. -/
def setStartWait (i : Chan) (v : Word) (s : State) : State :=
  s.setChannel i { s.channels.get i with startWait := v }

/-- The Starting case of `chUpdate(i)` for an inhibited channel without a confirmation (R236): one more tick waited,
and Fault with `fault_code = 3` once the wait exceeds `START_TIMEOUT_TICKS`. -/
def chWait (i : Chan) (s : State) : State :=
  let t := setStartWait i (satIncU16 (s.channels.get i).startWait) s
  if s.params.startTimeoutTicks < (t.channels.get i).startWait.toNat then
    (setStartWait i 0 (setState i .fault t)).setFaultCode 3
  else t

/-- `chUpdate(i)` (R236). -/
def chUpdate (i : Chan) (s : State) : State :=
  match s.ch i with
  | .starting =>
    if !(s.channels.get i).inhibit || (s.channels.get i).confirmed then
      recomputeActive (clearStart i (setState i .running s))
    else recomputeActive (chWait i s)
  | .stopping => recomputeActive (setState i .stopped s)
  | .stopped => s
  | .running => s
  | .overload => s
  | .fault => s

end Sys2Proof.Machine
end

