-- ==== Sys2Proof/Machine/Coordinator.lean ====
section
/-! DEFINITION. The coordinator's operations (spec 43_coordinator R284 to R300) and the meanings of the twelve
command-port words (30_encoding R117, R118). Each answers its Bool to the host and always has a next state. -/

namespace Sys2Proof.Machine

/-! ### The operations -/

/-- `requestCoordinatedStart(mask)` (R284). -/
def requestCoordinatedStart (mask : BitVec 4) (s : State) : State × Bool :=
  if mask = 0 ∨ s.coord.esActive = true then (s, false)
  else
    let t := forChannels (fun i u => if maskBit mask i then (chStart i u).1 else u) s
    (recomputeActive (setMaster .coordinatedStart t), true)

/-- `requestCoordinatedStop(mask)` (R285): the mask is intersected with `active_mask` once, before any stop. -/
def requestCoordinatedStop (mask : BitVec 4) (s : State) : State × Bool :=
  let m := mask &&& s.coord.activeMask
  (recomputeActive (forChannels (fun i u => if maskBit m i then (chStop i u).1 else u) s), true)

/-- `requestUnitStart(i)` on a channel that exists (R286). -/
def requestUnitStart (i : Chan) (s : State) : State × Bool :=
  if s.coord.esActive then (s, false)
  else
    let r := chStart i s
    (recomputeActive r.1, r.2)

/-- `requestUnitStop(i)` on a channel that exists (R287). -/
def requestUnitStop (i : Chan) (s : State) : State × Bool :=
  let r := chStop i s
  (recomputeActive r.1, r.2)

/-- `update()` (R300). -/
def updateAll (s : State) : State :=
  let t := recomputeActive (forChannels chUpdate s)
  setMaster (derive t) t

/-- An operation on the channel an index names; above 3 it answers false and changes nothing (R283). -/
def onChannel {n : Nat} (idx : BitVec n) (f : Chan → State → State × Bool) (s : State) : State × Bool :=
  match chanOf idx with
  | some i => f i s
  | none => (s, false)

/-! ### The meanings of the command words -/

/-- COORD_START (R284). -/
def execCoordStart (mask : BitVec 4) (s : State) : Host.Outcome State Fault Refusal :=
  .next (answered (requestCoordinatedStart mask s))

/-- COORD_STOP (R285). -/
def execCoordStop (mask : BitVec 4) (s : State) : Host.Outcome State Fault Refusal :=
  .next (answered (requestCoordinatedStop mask s))

/-- UNIT_START (R286). -/
def execUnitStart (idx : Byte) (s : State) : Host.Outcome State Fault Refusal :=
  .next (answered (onChannel idx requestUnitStart s))

/-- UNIT_STOP (R287). -/
def execUnitStop (idx : Byte) (s : State) : Host.Outcome State Fault Refusal :=
  .next (answered (onChannel idx requestUnitStop s))

/-- REPORT_FAULT (R291). -/
def execReportFault (ov : Bool) (idx : BitVec 7) (s : State) : Host.Outcome State Fault Refusal :=
  .next (answered (onChannel idx (fun i t => (faultEntry i ov t, true)) s))

/-- EMERGENCY_STOP (R292): the command-port form also sets `fault_code <- 5`. -/
def execEmergencyStop (s : State) : Host.Outcome State Fault Refusal :=
  .next (answered ((emergencyStop s).setFaultCode 5, true))

/-- CLEAR_ESTOP (R294). -/
def execClearEstop (s : State) : Host.Outcome State Fault Refusal :=
  .next (answered (clearEmergencyStop s))

/-- UNIT_RESET (R295). -/
def execUnitReset (idx : Byte) (s : State) : Host.Outcome State Fault Refusal :=
  .next (answered (onChannel idx faultReturn s))

/-- SET_INHIBIT (R296). -/
def execSetInhibit (b : Bool) (idx : BitVec 7) (s : State) : Host.Outcome State Fault Refusal :=
  .next (answered (onChannel idx (fun i t => chSetInhibit i b t) s))

/-- CONFIRM_START (R297). -/
def execConfirmStart (idx : Byte) (s : State) : Host.Outcome State Fault Refusal :=
  .next (answered (onChannel idx chConfirm s))

/-- UPDATE (R300): phase C without the other phases. -/
def execUpdate (s : State) : Host.Outcome State Fault Refusal :=
  .next (answered (updateAll s, true))

/-- RESERVED_COMMAND (30_encoding R118): false, and no state change. R118 also allows a refusal; the model takes the
effect (log 15). -/
def execReservedCommand (_op : Byte) (s : State) : Host.Outcome State Fault Refusal :=
  .next (answered (s, false))

end Sys2Proof.Machine
end

