-- ==== Sys2Proof/Machine/Registers.lean ====
section
/-! DEFINITION. The register access dispatcher and validator (spec 41_register_access R181 to R206) and the meanings of
the four wire requests: the part of 40_frame_codec R150 that starts when a frame has passed its length, address, CRC and
function-length checks. The arrival time `t_arr` of the frame in hand is `env.arrivedMs` (log 8). -/

namespace Sys2Proof.Machine

/-- What the dispatcher hands back to the codec (R180). -/
inductive Reply where
  /-- `Ok(payload)`, with the state after the store writes -/
  | ok (payload : List Byte) (s : State)
  /-- `Exc(code)`; nothing was written (R181) -/
  | exc (code : ExcCode)
  /-- a validated address has no slot (60_exceptions R375) -/
  | inconsistent
  deriving DecidableEq, Repr

/-- `storeWrite(a, v)` (R189): the store, and the latch of a register that has one (R193). -/
def storeWrite (r : Reg) (v : Word) (s : State) : State :=
  let t := s.setReg r v
  if r.hasLatch then t.setLatch r (some v) else t

/-- One accepted write (R192, R200): `Ignore` stores nothing. -/
def applyConv (r : Reg) (c : Conv) (s : State) : State :=
  match c with
  | .store v => storeWrite r v s
  | .illegal => s
  | .ignored => s

/-- `Read(start, qty)` (R190). -/
def readRegs (start qty : Word) (s : State) : Reply :=
  if qty.toNat < 1 ∨ Config.readQtyMax < qty.toNat then .exc .illegalValue
  else if inOneBlock start qty.toNat = false then .exc .illegalAddress
  else
    match regsFrom start.toNat qty.toNat with
    | none => .inconsistent
    | some rs => .ok (loByte (2 * qty) :: rs.flatMap fun r => be16bytes (s.reg r)) s

/-- `Write1(a, v)` (R192). -/
def writeReg (a v : Word) (s : State) : Reply :=
  if inOneBlock a 1 = false then .exc .illegalAddress
  else
    match regAt a.toNat with
    | none => .inconsistent
    | some r =>
      if r.cls = .ro then .exc .illegalAddress
      else
        match conv r v with
        | .illegal => .exc .illegalValue
        | c => .ok (be16bytes a ++ be16bytes v) (applyConv r c s)

/-- The writes of a validated write-multiple, in ascending address order (R198, R200). -/
def applyWrites : List (Reg × Word) → State → State
  | [], s => s
  | (r, v) :: rest, s => applyWrites rest (applyConv r (conv r v) s)

/-- `WriteN(s, q, bc, data)` (R200), with the checks in the order of R199. -/
def writeRegs (start qty : Word) (bc : Byte) (data : List Byte) (s : State) : Reply :=
  if qty.toNat < 1 ∨ Config.writeQtyMax < qty.toNat ∨ bc.toNat ≠ 2 * qty.toNat then .exc .illegalValue
  else if inOneBlock start qty.toNat = false then .exc .illegalAddress
  else
    match regsFrom start.toNat qty.toNat with
    | none => .inconsistent
    | some rs =>
      if rs.any (fun r => r.cls == .ro) then .exc .illegalAddress
      else
        let ws := rs.zip (valuesOf data qty.toNat)
        if ws.any (fun w => conv w.1 w.2 == .illegal) then .exc .illegalValue
        else .ok (be16bytes start ++ be16bytes qty) (applyWrites ws s)

/-- The end of R150: a normal response, an exception response, or the fault of 60_exceptions R375. `s` is the state the
dispatcher was given. -/
def respond (fc : Byte) (r : Reply) (s : State) : Host.Outcome State Fault Refusal :=
  match r with
  | .ok payload t => .next (send (normalResponse s.params.slaveAddr fc payload) t)
  | .exc code => .next (takeException fc code s)
  | .inconsistent => .fault .registerWithoutSlot

/-! ### The meanings of the wire requests -/

/-- READ_HOLDING_REGISTERS (R190). -/
def execReadHoldingRegisters (start qty : Word) (s : State) : Host.Outcome State Fault Refusal :=
  respond 0x03 (readRegs start qty (countRequest s)) (countRequest s)

/-- WRITE_SINGLE_REGISTER (R192). -/
def execWriteSingleRegister (reg value : Word) (s : State) : Host.Outcome State Fault Refusal :=
  respond 0x06 (writeReg reg value (countRequest s)) (countRequest s)

/-- WRITE_MULTIPLE_REGISTERS (R200). -/
def execWriteMultipleRegisters (start qty : Word) (bc : Byte) (data : List Byte) (s : State) :
    Host.Outcome State Fault Refusal :=
  respond 0x10 (writeRegs start qty bc data (countRequest s)) (countRequest s)

/-- ILLEGAL_FUNCTION (R205): exception 1, without calling the dispatcher. -/
def execIllegalFunction (fc : Byte) (s : State) : Host.Outcome State Fault Refusal :=
  .next (takeException fc .illegalFunction (countRequest s))

/-- The meaning of a decoded request (40_frame_codec R156). -/
def runRequest (req : Request) (s : State) : Host.Outcome State Fault Refusal :=
  match req with
  | .read start qty => execReadHoldingRegisters start qty s
  | .write1 reg value => execWriteSingleRegister reg value s
  | .writeN start qty bc data => execWriteMultipleRegisters start qty bc data s
  | .illegal fc => execIllegalFunction fc s

end Sys2Proof.Machine
end

