-- ==== Sys2Proof/Machine/Events.lean ====
section
/-! DEFINITION. The eight phases of a tick (spec 70_reset_and_hazards R430 to R437, 41_register_access R210 to R214)
and the meanings of the seven internal events (30_encoding R119). A step of an agent that is not enabled changes nothing
(log 4). -/

namespace Sys2Proof.Machine

/-! ### Phase A: the latches (41_register_access R210 to R215) -/

/-- `emit(RequestResult(op, i, b))` for a latched request, whose Bool is otherwise discarded (R215). -/
def reported (op : RequestOp) (i : Option Chan) (r : State × Bool) : State := r.1.emit (.requestResult op i r.2)

/-- The `EMERGENCY_STOP` latch (R210). -/
def consumeEmergencyStop (s : State) : State :=
  match s.latches.get (.glob .emergencyStop) with
  | none => s
  | some v =>
    let t :=
      if v ≠ 0 then reported .emergencyStop none ((emergencyStop s).setFaultCode 5, true)
      else reported .clearEmergencyStop none (clearEmergencyStop s)
    t.setLatch (.glob .emergencyStop) none

/-- The `SYSTEM_RESET` latch (R211). -/
def consumeSystemReset (s : State) : State :=
  match s.latches.get (.glob .systemReset) with
  | none => s
  | some v =>
    let t :=
      if v ≠ 0 then
        ({ s with stats := .reset, wdt := { s.wdt with flag := false } } : State).setReg (.glob .systemReset) 0
      else s
    t.setLatch (.glob .systemReset) none

/-- The `OVERLOAD_RESET(i)` latch (R212). The latch holds 0 or 1; a value it cannot hold does nothing (log 13). -/
def consumeOverloadReset (i : Chan) (s : State) : State :=
  match s.latches.get (.chan i .overloadReset) with
  | none => s
  | some v =>
    let t :=
      if v = 1 then (reported .unitReset (some i) (faultReturn i s)).setReg (.chan i .overloadReset) 0 else s
    t.setLatch (.chan i .overloadReset) none

/-- The `START_STOP(i)` latch (R213): a start needs `GLOBAL_ENABLE`. -/
def consumeStartStop (i : Chan) (s : State) : State :=
  match s.latches.get (.chan i .startStop) with
  | none => s
  | some v =>
    let t :=
      if v = 1 then
        if s.reg (.glob .globalEnable) ≠ 0 then reported .unitStart (some i) (requestUnitStart i s)
        else reported .unitStart (some i) (s, false)
      else if v = 0 then reported .unitStop (some i) (requestUnitStop i s)
      else s
    t.setLatch (.chan i .startStop) none

/-- `consumeLatches()` in the order of R214 (70_reset_and_hazards R431). -/
def consumeLatches (s : State) : State :=
  forChannels (fun i t => consumeStartStop i (consumeOverloadReset i t)) (consumeSystemReset (consumeEmergencyStop s))

/-! ### Phases B to H -/

/-- Phase B for channel `i` (70_reset_and_hazards R432). -/
def consumeEdge (i : Chan) (s : State) : State :=
  if s.ovlEdge.get i then faultEntry i true { s with ovlEdge := s.ovlEdge.set i false } else s

/-- Phase D (R433): the samples are the next free values (log 2). -/
def reflect (s : State) : State :=
  let t := reflectWith (sampleAt s.env.sampleNo) s
  { t with env := { t.env with sampleNo := t.env.sampleNo + 1 } }

/-- Phases A to D of R430. -/
def tickBeforeFrame (s : State) : State := reflect (updateAll (forChannels consumeEdge (consumeLatches s)))

/-- The head of `rxq` taken in hand (40_frame_codec R150). -/
def takeFrame (e : RxEntry) (rest : List RxEntry) (s : State) : State :=
  { s with rxq := rest, env := { s.env with arrivedMs := e.arrivedMs } }

/-- `processFrame()`, phase E (40_frame_codec R150). -/
def processFrame (s : State) : Host.Outcome State Fault Refusal :=
  match s.rxq with
  | [] => .next s
  | e :: rest =>
    match decodeFrame s.params.slaveAddr e.bytes with
    | .ok req => runRequest req (takeFrame e rest s)
    | .error d => .next (dropFrame d (takeFrame e rest s))

/-- The communication-timeout condition (44_safety_supervisor R332). -/
def commTimedOut (s : State) : Bool :=
  s.link.commArmed && !s.link.commFault && decide (s.params.commTimeoutMs < (elapsedMs s.nowMs s.link.lastValidMs).toNat)

/-- `commTimeoutCheck()`, phase F (44_safety_supervisor R332). -/
def commTimeoutCheck (s : State) : State :=
  if commTimedOut s then
    ((emergencyStop
        { s with
          link := { s.link with commFault := true }
          stats := { s.stats with timeoutErrors := s.stats.timeoutErrors + 1 } }).setFaultCode 4).emit
      .commTimeout
  else s

/-- `applyOutputs()`, phase G (70_reset_and_hazards R436). -/
def applyOutputs (s : State) : State :=
  let t : State :=
    { s with
      runOut := Quad.ofFn fun i => (s.ch i).isActive
      ampOut := Quad.ofFn fun i => s.reg (.chan i .amplitudeSetpoint) }
  t.callOutputs (outputCalls t)

/-- `wdtKick()`, phase H (44_safety_supervisor R340). -/
def wdtKick (s : State) : State := { s with wdt := { s.wdt with lastKickMs := s.nowMs } }

/-- Phases F to H of R430. -/
def tickAfterFrame (s : State) : State := wdtKick (applyOutputs (commTimeoutCheck s))

/-! ### The meanings of the events -/

/-- FRAME (40_frame_codec R141). -/
def execFrame (bytes : List Byte) (s : State) : Host.Outcome State Fault Refusal :=
  if s.rxq.length < s.params.frameQueueDepth then .next { s with rxq := s.rxq ++ [⟨bytes, s.nowMs⟩] }
  else .next (countMalformed s)

/-- TX_DONE (40_frame_codec R171): enabled only when `txq` is not empty. -/
def execTxDone (s : State) : Host.Outcome State Fault Refusal :=
  .next { s with txq := s.txq.tail }

/-- TICK (70_reset_and_hazards R430): phases A to H. -/
def execTick (s : State) : Host.Outcome State Fault Refusal :=
  match processFrame (tickBeforeFrame s) with
  | .next t => .next (tickAfterFrame t)
  | .fault r => .fault r
  | .refused r => .refused r

/-- ADVANCE (60_exceptions R410). -/
def execAdvance (dt : U32) (s : State) : Host.Outcome State Fault Refusal :=
  .next { s with nowMs := s.nowMs + dt }

/-- The enabling condition of WDT_EXPIRE (44_safety_supervisor R345). -/
def watchdogExpired (s : State) : Bool := decide (s.params.wdtTimeoutMs < (elapsedMs s.nowMs s.wdt.lastKickMs).toNat)

/-- WDT_EXPIRE (44_safety_supervisor R345). -/
def execWdtExpire (s : State) : Host.Outcome State Fault Refusal :=
  if watchdogExpired s then .next (watchdogEntry s) else .next s

/-- OVERLOAD_EDGE (60_exceptions R404). -/
def execOverloadEdge (i : Chan) (s : State) : Host.Outcome State Fault Refusal :=
  .next { s with ovlEdge := s.ovlEdge.set i true }

/-- POWER_ON (70_reset_and_hazards R420). -/
def execPowerOn (s : State) : Host.Outcome State Fault Refusal := .next (coldReset s)

end Sys2Proof.Machine
end

