-- ==== Sys2Proof/Machine/Dispatch.lean ====
section
/-! DEFINITION. One arm for each constructor of Instr: the direct call of its meaning. -/

namespace Sys2Proof.Machine

def exec (i : Instr) (s : State) : Host.Outcome State Fault Refusal :=
  match i with
  -- wire requests (41_register_access)
  | .readHoldingRegisters start qty => Sys2Proof.Machine.execReadHoldingRegisters start qty s
  | .writeSingleRegister reg value => Sys2Proof.Machine.execWriteSingleRegister reg value s
  | .writeMultipleRegisters start qty bc data => Sys2Proof.Machine.execWriteMultipleRegisters start qty bc data s
  | .illegalFunction fc => Sys2Proof.Machine.execIllegalFunction fc s
  -- command words (43_coordinator)
  | .coordStart mask => Sys2Proof.Machine.execCoordStart mask s
  | .coordStop mask => Sys2Proof.Machine.execCoordStop mask s
  | .unitStart idx => Sys2Proof.Machine.execUnitStart idx s
  | .unitStop idx => Sys2Proof.Machine.execUnitStop idx s
  | .reportFault overload idx => Sys2Proof.Machine.execReportFault overload idx s
  | .emergencyStop => Sys2Proof.Machine.execEmergencyStop s
  | .clearEstop => Sys2Proof.Machine.execClearEstop s
  | .unitReset idx => Sys2Proof.Machine.execUnitReset idx s
  | .setInhibit inhibit idx => Sys2Proof.Machine.execSetInhibit inhibit idx s
  | .confirmStart idx => Sys2Proof.Machine.execConfirmStart idx s
  | .update => Sys2Proof.Machine.execUpdate s
  | .reservedCommand op => Sys2Proof.Machine.execReservedCommand op s
  -- internal events (30_encoding R119)
  | .frame bytes => Sys2Proof.Machine.execFrame bytes s
  | .txDone => Sys2Proof.Machine.execTxDone s
  | .tick => Sys2Proof.Machine.execTick s
  | .advance dt => Sys2Proof.Machine.execAdvance dt s
  | .wdtExpire => Sys2Proof.Machine.execWdtExpire s
  | .overloadEdge ch => Sys2Proof.Machine.execOverloadEdge ch s
  | .powerOn => Sys2Proof.Machine.execPowerOn s

end Sys2Proof.Machine
end

