-- ==== Sys2Proof/Machine/Step.lean ====
section
/-! DEFINITION. One step: the next agent step is taken up, decoded and run (spec 00_scope R7, 60_exceptions R386). The
block has no program counter and fetches no code (70_reset_and_hazards R424); "the next instruction" is the next agent
step (log 3, log 7). -/

namespace Sys2Proof.Machine

def step (s : State) : Host.Outcome State Fault Refusal :=
  exec (decodeInput (nextInput s).1) (nextInput s).2

/-- A word of the opcode table placed so that the very next step runs it (log 7). -/
def State.withFetchWord (s : State) (nbits w : Nat) : State := placeTableWord s nbits w

end Sys2Proof.Machine
end

