-- ==== Sys2Proof/Safety.lean ====
section
/-! DEFINITION. What counts as a safe run, and the spec's own words for what an operation leaves behind, in the terms
the statements use. Nothing here is called by the machine. -/

namespace Sys2Proof.Machine

/-! ### Channels, masks and counts as the spec states them -/

/-- `ch[i] ∈ {Starting, Running}` (10_state R34). -/
abbrev Channel.Active (c : Channel) : Prop := c.state = .starting ∨ c.state = .running

/-- `ch[i] ∈ {Overload, Fault}` (10_state R23). -/
abbrev Channel.Faulted (c : Channel) : Prop := c.state = .overload ∨ c.state = .fault

/-- A channel that has just entered a state: no wait, no confirmation, the inhibit flag kept. -/
def Channel.entered (c : Channel) (n : ChannelState) : Channel := ⟨n, 0, false, c.inhibit⟩

/-- The mask of the active channels (10_state R34). -/
def activeSet (q : Quad Channel) : BitVec 4 := maskOfQuad (Quad.ofFn fun i => decide (q.get i).Active)

/-- How many channels satisfy a predicate. -/
def countChannels (p : Chan → Bool) : Nat := (p 0).toNat + (p 1).toNat + (p 2).toNat + (p 3).toNat

/-- `transition_count` after `n` counted changes: it saturates at `2^32 - 1` (10_state R32). -/
def countedUp (c : U32) (n : Nat) : U32 := BitVec.ofNat 32 (min (c.toNat + n) 0xFFFFFFFF)

/-- The master state the channels call for (43_coordinator R282). -/
def masterFor (esActive : Bool) (q : Quad Channel) : MasterState :=
  if esActive = true then .emergencyStop
  else if ∃ i, (q.get i).state = .starting then .coordinatedStart
  else if ∃ i, (q.get i).state = .running then .running
  else .idle

/-- One channel after an `update()` (42_channel_fsm R236, R239), with `n = START_TIMEOUT_TICKS`. -/
def Channel.afterUpdate (n : Nat) (c : Channel) : Channel :=
  if c.state = .starting then
    if c.inhibit = false ∨ c.confirmed = true then c.entered .running
    else if n < min (c.startWait.toNat + 1) 0xFFFF then { c with state := .fault, startWait := 0 }
    else { c with startWait := BitVec.ofNat 16 (min (c.startWait.toNat + 1) 0xFFFF) }
  else if c.state = .stopping then { c with state := .stopped }
  else c

/-- The snapshot of a state (44_safety_supervisor R350). -/
def snapshotOf (s : State) : Snapshot where
  valid := true
  state := Quad.ofFn fun i => (s.channels.get i).state
  amp := Quad.ofFn fun i => (s.regs.channels.get i).amplitudeSetpoint

/-- The channels an emergency stop leaves (42_channel_fsm R238). -/
def shutDown (q : Quad Channel) : Quad Channel :=
  Quad.ofFn fun i => if (q.get i).Active then (q.get i).entered .stopping else q.get i

/-! ### What a step leaves outside the block -/

/-- Events appended to the diagnostics stream. -/
def State.logged (s : State) (evs : List Event) : State := { s with env := { s.env with diag := s.env.diag ++ evs } }

/-- The same state, with the Bool a command word answers. -/
def State.returns (s : State) (b : Bool) : State := { s with env := { s.env with cmdResult := some b } }

/-- The eight `writeOutput` calls of given outputs (60_exceptions R407). -/
def callsFor (run : Chan → Bool) (amp : Chan → Word) : List OutputCall :=
  [.run 0 (run 0), .amplitude 0 (amp 0), .run 1 (run 1), .amplitude 1 (amp 1), .run 2 (run 2), .amplitude 2 (amp 2),
    .run 3 (run 3), .amplitude 3 (amp 3)]

/-- The four channel indices, in the order every pass takes them. -/
def chans : List Chan := [0, 1, 2, 3]

/-- One `Transition` event for each channel whose state differs, in ascending order (42_channel_fsm R230). -/
def channelEvents (q r : Quad Channel) : List Event :=
  chans.filterMap fun i =>
    if (q.get i).state = (r.get i).state then none else some (.transition i (q.get i).state (r.get i).state)

/-- The event of a change of the master state (43_coordinator R282). -/
def masterEvents (m n : MasterState) : List Event := if m = n then [] else [.masterTransition m n]

/-- The state after the channels became `q` and the master state `m`: the active mask is exact (43_coordinator R281),
and each change of a channel state and of the master state is counted and logged (10_state R32). -/
def State.transitioned (s : State) (q : Quad Channel) (m : MasterState) : State :=
  let evs := channelEvents s.channels q ++ masterEvents s.coord.masterState m
  { s with
    channels := q
    coord :=
      { s.coord with
        masterState := m
        activeMask := activeSet q
        transitionCount := countedUp s.coord.transitionCount evs.length }
    env := { s.env with diag := s.env.diag ++ evs } }

/-- The state after the safety shutdown of 44_safety_supervisor R351, with the fault code its cause writes. -/
def State.shutdown (s : State) (code : Word) : State :=
  let t : State :=
    { s with
      snap := if s.coord.esActive = true then s.snap else snapshotOf s
      coord := { s.coord with esActive := true, faultCode := code } }
  let u := t.logged (if s.coord.esActive = true then [] else [.snapshotTaken])
  (u.transitioned (shutDown s.channels) .emergencyStop).logged [.emergencyStopEntered]

/-- `now_ms - last_valid_ms` has not passed `COMM_TIMEOUT_MS`, or nothing is supervised yet, or the fault is latched
already: phase F does nothing (44_safety_supervisor R332, R333). -/
def LinkQuiet (s : State) : Prop :=
  s.link.commArmed = false ∨ s.link.commFault = true ∨ (s.nowMs - s.link.lastValidMs).toNat ≤ s.params.commTimeoutMs

/-! ### What a wire request leaves -/

/-- The value at a register address; an undefined address has none, and 0 stands for it. -/
def regValueAt (s : State) (a : Nat) : Word :=
  match regAt a with
  | some r => s.regs.get r
  | none => 0

/-- The value a write stores (41_register_access R187): the amplitude setpoint is clamped to [20,100]. -/
def storedValue (r : Reg) (v : Word) : Word :=
  if r.cls = .rwAmp then BitVec.ofNat 16 (min (max v.toNat 20) 100) else v

/-- A value the class of a register accepts (10_state R21). -/
def accepts (r : Reg) (v : Word) : Prop := r.cls ≠ .ro ∧ (r.cls = .rwBool → v = 0 ∨ v = 1)

/-- The state after a request drew a response: the response queued, the request and the response counted, the response
time kept if it is the longest, the link refreshed (40_frame_codec R155, R162, R168). -/
def responded (s : State) (resp : List Byte) : State :=
  { s with
    txq := s.txq ++ [resp]
    stats :=
      { s.stats with
        requestsReceived := s.stats.requestsReceived + 1
        responsesSent := s.stats.responsesSent + 1
        maxResponseMs :=
          BitVec.ofNat 32 (max s.stats.maxResponseMs.toNat ((s.nowMs - s.env.arrivedMs).toNat)) }
    link := ⟨true, false, s.nowMs⟩ }

/-- The counter of an exception code, one up (40_frame_codec R160). -/
def Stats.withException (t : Stats) : ExcCode → Stats
  | .illegalFunction => { t with illegalFunction := t.illegalFunction + 1 }
  | .illegalAddress => { t with illegalAddress := t.illegalAddress + 1 }
  | .illegalValue => { t with illegalValue := t.illegalValue + 1 }
  | .slaveFailure => { t with slaveFailure := t.slaveFailure + 1 }

/-- The state after a request drew an exception response (60_exceptions R371, R372). -/
def rejected (s : State) (fc : Byte) (code : ExcCode) : State :=
  responded { s with stats := s.stats.withException code } (withCrc [s.params.slaveAddr, fc ||| 0x80, code.code])

/-! ### Invariants -/

/-- 10_state R34: `active_mask[i] = 1` iff `ch[i] ∈ {Starting, Running}`. -/
def MaskExact (s : State) : Prop := ∀ i, maskBit s.coord.activeMask i = true ↔ (s.channels.get i).Active

/-- What holds of the channels and the coordinator after every step. -/
structure CoordInv (s : State) : Prop where
  /-- 10_state R34 -/
  mask : MaskExact s
  /-- 43_coordinator R302 -/
  quiet : s.coord.esActive = true → s.coord.activeMask = 0 ∧ s.coord.masterState = .emergencyStop
  /-- a communication fault keeps the emergency stop (43_coordinator R294, 44_safety_supervisor R332) -/
  fault : s.link.commFault = true → s.link.commArmed = true ∧ s.coord.esActive = true
  /-- only a Starting channel waits or is confirmed (10_state R30) -/
  waits : ∀ i, (s.channels.get i).confirmed = true ∨ (s.channels.get i).startWait ≠ 0 →
    (s.channels.get i).state = .starting
  /-- 10_state R33 -/
  code : s.coord.faultCode.toNat ≤ 5

/-- What holds of the registers and latches after every step. -/
structure RegInv (s : State) : Prop where
  /-- 10_state R26: "always in [20,100]" -/
  setpoint : ∀ i, 20 ≤ (s.regs.channels.get i).amplitudeSetpoint.toNat ∧
    (s.regs.channels.get i).amplitudeSetpoint.toNat ≤ 100
  /-- class RW_BOOL of 10_state R21 -/
  startStop : ∀ i, (s.regs.channels.get i).startStop.toNat ≤ 1
  /-- class RW_BOOL of 10_state R21 -/
  overloadReset : ∀ i, (s.regs.channels.get i).overloadReset.toNat ≤ 1
  /-- a latch holds the value stored (10_state R24) -/
  latched : ∀ i v, (s.latches.channels.get i).startStop = some v ∨ (s.latches.channels.get i).overloadReset = some v →
    v.toNat ≤ 1
  /-- 10_state R22: `ACTIVE_COUNT` and `ACTIVE_MASK` agree -/
  count : s.regs.system.activeMask.toNat ≤ 15 ∧
    s.regs.system.activeCount.toNat = countChannels fun i => s.regs.system.activeMask.getLsbD i.val
  /-- 10_state R23: bits 15..4 read 0 -/
  sysReserved : s.regs.system.sysStatus.toNat < 16
  /-- 10_state R28: bits 15..8 read 0 -/
  flagsReserved : ∀ i, (s.regs.channels.get i).statusFlags.toNat < 256
  /-- 10_state R31 -/
  masterCode : s.regs.system.masterState.toNat ≤ 3
  /-- 10_state R33 -/
  faultCode : s.regs.system.faultCode.toNat ≤ 5
  /-- 10_state R29 -/
  prevState : ∀ i, (s.regs.channels.get i).prevState.toNat ≤ 5 ∨ (s.regs.channels.get i).prevState = 0xFFFF

/-- What holds of the link after every step. -/
structure CommsInv (s : State) : Prop where
  /-- 60_exceptions R375: "`stats.slave_failure` stays 0" -/
  noSlaveFailure : s.stats.slaveFailure = 0
  /-- 30_encoding R101, 40_frame_codec R166: a queued response starts with the slave address and ends with its CRC -/
  framed : ∀ f ∈ s.txq, ∃ p, f = withCrc (s.params.slaveAddr :: p)
  /-- 10_state R39: at most `FRAME_QUEUE_DEPTH` entries -/
  bounded : s.rxq.length ≤ s.params.frameQueueDepth

/-- `RUN` is off on every channel (44_safety_supervisor R353). -/
def OutputsOff (s : State) : Prop := ∀ i, s.runOut.get i = false

end Sys2Proof.Machine
end

