-- ==== Sys2Proof/Certificates/Slice0/Obligations.lean ====
section
/-! DEFINITION. The statements for the provers. Each docstring names the rules of spec/ it formalises; a statement that
rests on a choice of the model names the log entry. A statement whose conclusion is an equation between whole states is
also the frame of the instruction: what the right side does not name is unchanged. -/

section

open Sys2Proof Sys2Proof.Machine

/-! ### Encodings -/

/-- 30_encoding R105, R107, R109, R116, R117: decoding the encoding of a well-formed operation gives it back, for every
slave address and every operand the encoding admits. -/
def Obligations.DecodeEncodeRoundTrip : Prop :=
  ∀ (sa : Byte) (i : Instr), i.wellFormed = true → decode sa (encode sa i) = .ok i

/-- 30_encoding R104, R117, R118: words written out from the spec's own encodings and examples decode to the operations
they stand for. -/
def Obligations.DecodeKnownWords : Prop :=
  decode 1 (.wire [0x01, 0x03, 0x00, 0x00, 0x00, 0x02, 0xC4, 0x0B]) = .ok (.readHoldingRegisters 0x0000 2) ∧
    decode 1 (.wire [0x01, 0x06, 0x01, 0x00, 0x00, 0x01, 0x49, 0xF6]) = .ok (.writeSingleRegister 0x0100 1) ∧
    decode 1 (.wire [0x01, 0x10, 0x01, 0x00, 0x00, 0x02, 0x04, 0x00, 0x01, 0x00, 0x32, 0x2E, 0x2A]) =
      .ok (.writeMultipleRegisters 0x0100 2 4 [0x00, 0x01, 0x00, 0x32]) ∧
    decode 1 (.wire [0x01, 0x2B, 0x0E, 0x01, 0x00, 0x70, 0x77]) = .ok (.illegalFunction 0x2B) ∧
    decode 1 (.input (.port 0x010F)) = .ok (.coordStart 0b1111) ∧
    decode 1 (.input (.port 0x0583)) = .ok (.reportFault true 3) ∧
    decode 1 (.input (.port 0x0C00)) = .ok (.reservedCommand 0x0C)

/-- 30_encoding R118: the reserved words are exactly `OP = 0x00` and `OP = 0x0C` to `0xFF`; a reserved word answers
false and changes nothing else. -/
def Obligations.ReservedWordsAnswerFalse : Prop :=
  ∀ (w : Word) (s : State),
    ((∃ op, decodeCommand w = .reservedCommand op) ↔ w.toNat / 256 = 0 ∨ 0x0C ≤ w.toNat / 256) ∧
      ∀ op, exec (.reservedCommand op) s = .next (s.returns false)

/-- 40_frame_codec R146. -/
def Obligations.CrcResidueIsZero : Prop :=
  (∀ m : List Byte, crc16 (m ++ [loByte (crc16 m), hiByte (crc16 m)]) = 0) ∧
    ∀ f : List Byte, 2 ≤ f.length →
      (le16 f (f.length - 2) = crc16 (f.take (f.length - 2)) ↔ crc16 f = 0)

/-- 40_frame_codec R147: any one byte of a good frame corrupted makes the frame a CRC error, counted once and not
answered; a corrupted address byte makes it a frame for another station, not counted. -/
def Obligations.CorruptedByteIsDropped : Prop :=
  ∀ (s : State) (f : List Byte) (k : Nat) (b : Byte) (at_ : U32) (rest : List RxEntry),
    4 ≤ f.length → f.length ≤ 256 → byteAt f 0 = s.params.slaveAddr →
      le16 f (f.length - 2) = crc16 (f.take (f.length - 2)) → k < f.length → b ≠ byteAt f k →
        s.rxq = ⟨f.set k b, at_⟩ :: rest →
          processFrame s =
            .next
              { s with
                rxq := rest
                stats := { s.stats with crcErrors := if k = 0 then s.stats.crcErrors else s.stats.crcErrors + 1 }
                env := { s.env with arrivedMs := at_ } }

/-- 40_frame_codec R152, R153, R154, R155, R157: what each kind of dropped frame leaves, in the order of the checks. -/
def Obligations.DroppedFramesOnlyCount : Prop :=
  ∀ (s : State) (f : List Byte) (at_ : U32) (rest : List RxEntry), s.rxq = ⟨f, at_⟩ :: rest →
    let t : State := { s with rxq := rest, env := { s.env with arrivedMs := at_ } }
    let n := f.length
    let goodCrc : Prop := le16 f (n - 2) = crc16 (f.take (n - 2))
    let wrongLength : Prop :=
      (byteAt f 1 = 0x03 ∧ n ≠ 8) ∨ (byteAt f 1 = 0x06 ∧ n ≠ 8) ∨
        (byteAt f 1 = 0x10 ∧ (n < 9 ∨ n ≠ 9 + (byteAt f 6).toNat))
    (n < 4 ∨ 256 < n →
        processFrame s = .next { t with stats := { t.stats with malformed := t.stats.malformed + 1 } }) ∧
      (4 ≤ n → n ≤ 256 → byteAt f 0 ≠ s.params.slaveAddr → processFrame s = .next t) ∧
      (4 ≤ n → n ≤ 256 → byteAt f 0 = s.params.slaveAddr → ¬goodCrc →
        processFrame s = .next { t with stats := { t.stats with crcErrors := t.stats.crcErrors + 1 } }) ∧
      (4 ≤ n → n ≤ 256 → byteAt f 0 = s.params.slaveAddr → goodCrc → wrongLength →
        processFrame s =
          .next
            { t with
              stats :=
                { t.stats with
                  requestsReceived := t.stats.requestsReceived + 1
                  malformed := t.stats.malformed + 1 } })

/-! ### The register address map -/

/-- 20_memory R73, R74, R75, R76: the address and the class of every register, and no slot anywhere else. -/
def Obligations.RegisterAddressMap : Prop :=
  (∀ r : SysReg, (Reg.sys r).cls = .ro) ∧ (∀ r : GlobReg, (Reg.glob r).cls = .rwFull) ∧
    [0x00, 0x01, 0x02, 0x03, 0x04, 0x05, 0x06, 0x07, 0x08, 0x09, 0x0A, 0x0B, 0x0C, 0x0D, 0x0E, 0x0F].map regAt =
      ([.sysStatus, .activeCount, .activeMask, .masterState, .faultCode, .transitionCount, .statRequests,
        .statResponses, .statCrcErrors, .statTimeouts, .statIllegalFunction, .statIllegalAddress, .statIllegalValue,
        .statSlaveFailure, .statMalformed, .statMaxResponseMs] : List SysReg).map (fun r => some (.sys r)) ∧
    [0x10, 0x11, 0x12].map regAt =
      ([.globalEnable, .emergencyStop, .systemReset] : List GlobReg).map (fun r => some (.glob r)) ∧
    (∀ i : Chan,
      [0, 1, 2, 3, 4, 5, 6, 7, 8].map (fun k => regAt (0x100 + 0x10 * i.val + k)) =
          ([.startStop, .amplitudeSetpoint, .overloadReset, .power, .frequency, .statusFlags, .amplitudeActual,
            .prevState, .prevAmplitude] : List ChanReg).map (fun r => some (.chan i r)) ∧
        ([.startStop, .amplitudeSetpoint, .overloadReset, .power, .frequency, .statusFlags, .amplitudeActual,
            .prevState, .prevAmplitude] : List ChanReg).map (fun r => (Reg.chan i r).cls) =
          [.rwBool, .rwAmp, .rwBool, .ro, .ro, .ro, .ro, .roDiag, .roDiag]) ∧
    ∀ a : Nat, regAt a = none ↔
      (0x13 ≤ a ∧ a ≤ 0xFF) ∨ (∃ i : Chan, 0x109 + 0x10 * i.val ≤ a ∧ a ≤ 0x10F + 0x10 * i.val) ∨ 0x140 ≤ a

/-- 20_memory R72, 41_register_access R182: a range passes the address check exactly when it is not empty, does not
wrap and lies between the two ends of one of the six blocks; then every address of it is defined. -/
def Obligations.RangeInOneBlockIsDefined : Prop :=
  ∀ (a : Word) (q : Nat),
    (inOneBlock a q = true ↔
      1 ≤ q ∧ a.toNat + q - 1 ≤ 0xFFFF ∧
        ∃ p ∈ [(0x00, 0x0F), (0x10, 0x12), (0x100, 0x108), (0x110, 0x118), (0x120, 0x128), (0x130, 0x138)],
          p.1 ≤ a.toNat ∧ a.toNat + q - 1 ≤ p.2) ∧
      (inOneBlock a q = true → ∀ k < q, ∃ r, regAt (a.toNat + k) = some r)

/-- 10_state R20, R24: a write to one register leaves every other register alone, and the same for the latches; a
register without a latch never has one pending. -/
def Obligations.StoreReadAfterWrite : Prop :=
  (∀ (t : RegStore) (r q : Reg) (v : Word), (t.set r v).get q = if q = r then v else t.get q) ∧
    (∀ (l : Latches) (r q : Reg) (o : Option Word),
      (l.set r o).get q = if q = r ∧ r.hasLatch = true then o else l.get q) ∧
    ∀ (l : Latches) (r : Reg), r.hasLatch = false → l.get r = none

/-! ### The wire requests (meanings start where the frame has passed its checks, log 8) -/

/-- 41_register_access R185, R190, 30_encoding R106: a read answers the values and changes no register, latch, channel
or coordinator state. -/
def Obligations.ReadAnswersTheRegisters : Prop :=
  ∀ (start qty : Word) (s : State), 1 ≤ qty.toNat → qty.toNat ≤ 125 → inOneBlock start qty.toNat = true →
    exec (.readHoldingRegisters start qty) s =
      .next
        (responded s
          (withCrc
            ([s.params.slaveAddr, 0x03, BitVec.ofNat 8 (2 * qty.toNat)] ++
              (List.range qty.toNat).flatMap fun k => be16bytes (regValueAt s (start.toNat + k)))))

/-- 41_register_access R191, R183: the quantity is checked before the address. -/
def Obligations.ReadExceptions : Prop :=
  ∀ (start qty : Word) (s : State),
    (qty.toNat = 0 ∨ 125 < qty.toNat →
        exec (.readHoldingRegisters start qty) s = .next (rejected s 0x03 .illegalValue)) ∧
      (1 ≤ qty.toNat → qty.toNat ≤ 125 → inOneBlock start qty.toNat = false →
        exec (.readHoldingRegisters start qty) s = .next (rejected s 0x03 .illegalAddress))

/-- 41_register_access R187, R188, R189, R192, R193, 30_encoding R108: an accepted write stores the converted value and
arms the latch the register has (a previous-state register stores nothing), and the response is the request frame. -/
def Obligations.WriteSingleStores : Prop :=
  ∀ (a v : Word) (r : Reg) (s : State), regAt a.toNat = some r → accepts r v →
    ∃ resp, encode s.params.slaveAddr (.writeSingleRegister a v) = .wire resp ∧
      exec (.writeSingleRegister a v) s =
        .next
          (responded
            (if r.cls = .roDiag then s
            else
              { s with
                regs := s.regs.set r (storedValue r v)
                latches := if r.hasLatch = true then s.latches.set r (some (storedValue r v)) else s.latches })
            resp)

/-- 41_register_access R183, R186, R187: an undefined or read-only address draws code 2, a value that is not boolean
draws code 3; nothing is stored. -/
def Obligations.WriteSingleExceptions : Prop :=
  ∀ (a v : Word) (s : State),
    (regAt a.toNat = none → exec (.writeSingleRegister a v) s = .next (rejected s 0x06 .illegalAddress)) ∧
      (∀ r, regAt a.toNat = some r → r.cls = .ro →
        exec (.writeSingleRegister a v) s = .next (rejected s 0x06 .illegalAddress)) ∧
      ∀ r, regAt a.toNat = some r → r.cls = .rwBool → v ≠ 0 → v ≠ 1 →
        exec (.writeSingleRegister a v) s = .next (rejected s 0x06 .illegalValue)

/-- 41_register_access R198, R200, 30_encoding R110: when every check passes, every register of the range holds its
converted value and its latch is armed, every other register and latch is unchanged, and nothing else changes but what
a response changes. -/
def Obligations.WriteMultipleStoresAll : Prop :=
  ∀ (start qty : Word) (bc : Byte) (data : List Byte) (s : State),
    1 ≤ qty.toNat → qty.toNat ≤ 123 → bc.toNat = 2 * qty.toNat → inOneBlock start qty.toNat = true →
      (∀ k < qty.toNat, ∃ r, regAt (start.toNat + k) = some r ∧ accepts r (be16 data (2 * k))) →
        ∃ t : State,
          exec (.writeMultipleRegisters start qty bc data) s =
              .next (responded t (withCrc ([s.params.slaveAddr, 0x10] ++ be16bytes start ++ be16bytes qty))) ∧
            t = { s with regs := t.regs, latches := t.latches } ∧
            (∀ k < qty.toNat, ∀ r, regAt (start.toNat + k) = some r → r.cls ≠ .roDiag →
              t.regs.get r = storedValue r (be16 data (2 * k)) ∧
                (r.hasLatch = true → t.latches.get r = some (storedValue r (be16 data (2 * k))))) ∧
            ∀ r, (∀ k < qty.toNat, regAt (start.toNat + k) = some r → r.cls = .roDiag) →
              t.regs.get r = s.regs.get r ∧ t.latches.get r = s.latches.get r

/-- 41_register_access R197, R199: the checks of a write-multiple in order; the first that fails decides the code, and
nothing is stored. -/
def Obligations.WriteMultipleExceptions : Prop :=
  ∀ (start qty : Word) (bc : Byte) (data : List Byte) (s : State),
    let badCount : Prop := qty.toNat = 0 ∨ 123 < qty.toNat ∨ bc.toNat ≠ 2 * qty.toNat
    let readOnly : Prop := ∃ k < qty.toNat, ∃ r, regAt (start.toNat + k) = some r ∧ r.cls = .ro
    let badValue : Prop :=
      ∃ k < qty.toNat, ∃ r, regAt (start.toNat + k) = some r ∧ r.cls = .rwBool ∧
        be16 data (2 * k) ≠ 0 ∧ be16 data (2 * k) ≠ 1
    (badCount →
        exec (.writeMultipleRegisters start qty bc data) s = .next (rejected s 0x10 .illegalValue)) ∧
      (¬badCount → inOneBlock start qty.toNat = false →
        exec (.writeMultipleRegisters start qty bc data) s = .next (rejected s 0x10 .illegalAddress)) ∧
      (¬badCount → inOneBlock start qty.toNat = true → readOnly →
        exec (.writeMultipleRegisters start qty bc data) s = .next (rejected s 0x10 .illegalAddress)) ∧
      (¬badCount → inOneBlock start qty.toNat = true → ¬readOnly → badValue →
        exec (.writeMultipleRegisters start qty bc data) s = .next (rejected s 0x10 .illegalValue))

/-- 41_register_access R205, 30_encoding R111. -/
def Obligations.IllegalFunctionDrawsCodeOne : Prop :=
  ∀ (fc : Byte) (s : State),
    exec (.illegalFunction fc) s =
      .next
        (responded { s with stats := { s.stats with illegalFunction := s.stats.illegalFunction + 1 } }
          (withCrc [s.params.slaveAddr, fc ||| 0x80, 1]))

/-- 41_register_access R216: what was written is read back, the amplitude as the clamped bound. -/
def Obligations.WriteThenReadRoundTrip : Prop :=
  ∀ (a v : Word) (r : Reg) (s : State), regAt a.toNat = some r → accepts r v → r.cls ≠ .roDiag →
    ∃ t, exec (.writeSingleRegister a v) s = .next t ∧
      exec (.readHoldingRegisters a 1) t =
        .next
          (responded t
            (withCrc ([s.params.slaveAddr, 0x03, 0x02] ++
              be16bytes (if r.cls = .rwAmp then BitVec.ofNat 16 (min (max v.toNat 20) 100) else v))))

/-- 40_frame_codec R151, R162: phase E takes at most the head of `rxq`; the link is refreshed exactly when a response is
queued; a frame that draws none changes no register and no latch; no channel, coordinator, snapshot, watchdog or output
state changes. -/
def Obligations.LinkRefreshedOnlyByAResponse : Prop :=
  ∀ s : State, ∃ t, processFrame s = .next t ∧
    t =
      { s with
        regs := t.regs, latches := t.latches, stats := t.stats, link := t.link, txq := t.txq
        rxq := s.rxq.tail
        env := { s.env with arrivedMs := t.env.arrivedMs } } ∧
    ((t.txq = s.txq ∧ t.link = s.link ∧ t.regs = s.regs ∧ t.latches = s.latches) ∨
      ∃ resp, t.txq = s.txq ++ [resp] ∧ t.link = ⟨true, false, s.nowMs⟩)

/-! ### The command words (43_coordinator) -/

/-- 43_coordinator R283. -/
def Obligations.OutOfRangeIndexAnswersFalse : Prop :=
  (∀ (idx : Byte) (s : State), 3 < idx.toNat →
      exec (.unitStart idx) s = .next (s.returns false) ∧ exec (.unitStop idx) s = .next (s.returns false) ∧
        exec (.unitReset idx) s = .next (s.returns false) ∧ exec (.confirmStart idx) s = .next (s.returns false)) ∧
    ∀ (b : Bool) (idx : BitVec 7) (s : State), 3 < idx.toNat →
      exec (.reportFault b idx) s = .next (s.returns false) ∧ exec (.setInhibit b idx) s = .next (s.returns false)

/-- 43_coordinator R286, 42_channel_fsm R231. -/
def Obligations.UnitStartResult : Prop :=
  ∀ (idx : Byte) (i : Chan) (s : State), idx.toNat = i.val → MaskExact s →
    exec (.unitStart idx) s =
      .next
        (if s.coord.esActive = true then s.returns false
        else if (s.channels.get i).state = .stopped then
          (s.transitioned (s.channels.set i ((s.channels.get i).entered .starting)) s.coord.masterState).returns true
        else s.returns (decide ((s.channels.get i).state = .starting ∨ (s.channels.get i).state = .running)))

/-- 43_coordinator R287, 42_channel_fsm R232. -/
def Obligations.UnitStopResult : Prop :=
  ∀ (idx : Byte) (i : Chan) (s : State), idx.toNat = i.val → MaskExact s →
    exec (.unitStop idx) s =
      .next
        (if (s.channels.get i).Active then
          (s.transitioned (s.channels.set i ((s.channels.get i).entered .stopping)) s.coord.masterState).returns true
        else s.returns true)

/-- 43_coordinator R284: an empty mask or an emergency stop rejects; otherwise every Stopped channel of the mask is
Starting, the others are as they were, and the master state is CoordinatedStart. -/
def Obligations.CoordStartResult : Prop :=
  ∀ (mask : BitVec 4) (s : State),
    exec (.coordStart mask) s =
      .next
        (if mask = 0 ∨ s.coord.esActive = true then s.returns false
        else
          (s.transitioned
              (Quad.ofFn fun i =>
                if mask.getLsbD i.val = true ∧ (s.channels.get i).state = .stopped then
                  (s.channels.get i).entered .starting
                else s.channels.get i)
              .coordinatedStart).returns
            true)

/-- 43_coordinator R285: every active channel of the mask is Stopping; channels not active are ignored. -/
def Obligations.CoordStopResult : Prop :=
  ∀ (mask : BitVec 4) (s : State), MaskExact s →
    exec (.coordStop mask) s =
      .next
        ((s.transitioned
            (Quad.ofFn fun i =>
              if mask.getLsbD i.val = true ∧ (s.channels.get i).Active then (s.channels.get i).entered .stopping
              else s.channels.get i)
            s.coord.masterState).returns
          true)

/-- 43_coordinator R291, 42_channel_fsm R233, R240: the channel faults from every state, its siblings are unchanged. -/
def Obligations.ReportFaultResult : Prop :=
  ∀ (ov : Bool) (idx : BitVec 7) (i : Chan) (s : State), idx.toNat = i.val →
    let t :=
      s.transitioned (s.channels.set i ((s.channels.get i).entered (if ov = true then .overload else .fault)))
        s.coord.masterState
    exec (.reportFault ov idx) s =
      .next
        ((({ t with coord := { t.coord with faultCode := if ov = true then 1 else 2 } } : State).logged
            [.faultReported i ov]).returns
          true)

/-- 43_coordinator R292, 44_safety_supervisor R350, R351, R352: the command-port emergency stop. -/
def Obligations.EmergencyStopResult : Prop :=
  ∀ s : State, exec .emergencyStop s = .next ((s.shutdown 5).returns true)

/-- 43_coordinator R294, 60_exceptions R396: the clear needs an active emergency stop and a healthy link; it restores no
channel, keeps the snapshot and the fault code. -/
def Obligations.ClearEstopResult : Prop :=
  ∀ s : State, MaskExact s →
    exec .clearEstop s =
      .next
        (if s.coord.esActive = false ∨ s.link.commFault = true then s.returns false
        else
          ((({ s with coord := { s.coord with esActive := false } } : State).transitioned s.channels
                  (masterFor false s.channels)).logged
              [.emergencyStopCleared]).returns
            true)

/-- 43_coordinator R295, 42_channel_fsm R234. -/
def Obligations.UnitResetResult : Prop :=
  ∀ (idx : Byte) (i : Chan) (s : State), idx.toNat = i.val → MaskExact s →
    exec (.unitReset idx) s =
      .next
        (if (s.channels.get i).Faulted then
          (s.transitioned (s.channels.set i ((s.channels.get i).entered .stopped)) s.coord.masterState).returns true
        else s.returns false)

/-- 43_coordinator R296, 42_channel_fsm R237. -/
def Obligations.SetInhibitResult : Prop :=
  ∀ (b : Bool) (idx : BitVec 7) (i : Chan) (s : State), idx.toNat = i.val →
    exec (.setInhibit b idx) s =
      .next
        (({ s with channels := s.channels.set i { s.channels.get i with inhibit := b } } : State).returns true)

/-- 43_coordinator R297, 42_channel_fsm R235: a confirmation is remembered only in Starting. -/
def Obligations.ConfirmStartResult : Prop :=
  ∀ (idx : Byte) (i : Chan) (s : State), idx.toNat = i.val →
    exec (.confirmStart idx) s =
      .next
        (if (s.channels.get i).state = .starting then
          ({ s with channels := s.channels.set i { s.channels.get i with confirmed := true } } : State).returns true
        else s.returns false)

/-- 43_coordinator R300, 42_channel_fsm R236: every channel advances by at most one state, then the active mask and the
master state are derived; a start that waited too long leaves `fault_code = 3`. -/
def Obligations.UpdateAdvancesEveryChannel : Prop :=
  ∀ s : State,
    let q := Quad.ofFn fun i => (s.channels.get i).afterUpdate s.params.startTimeoutTicks
    let t := s.transitioned q (masterFor s.coord.esActive q)
    exec .update s =
      .next
        (({ t with
            coord :=
              { t.coord with
                faultCode :=
                  if ∃ i, (s.channels.get i).state = .starting ∧ (q.get i).state = .fault then 3
                  else s.coord.faultCode } } : State).returns
          true)

/-! ### The internal events -/

/-- 40_frame_codec R141. -/
def Obligations.FrameQueuedOrCounted : Prop :=
  ∀ (bytes : List Byte) (s : State),
    exec (.frame bytes) s =
      .next
        (if s.rxq.length < s.params.frameQueueDepth then { s with rxq := s.rxq ++ [⟨bytes, s.nowMs⟩] }
        else { s with stats := { s.stats with malformed := s.stats.malformed + 1 } })

/-- 40_frame_codec R171, 60_exceptions R404, R410: the transmit, time and input agents change only their own state. -/
def Obligations.AgentStepsTouchOnlyTheirState : Prop :=
  ∀ s : State,
    (∀ (head : List Byte) (rest : List (List Byte)), s.txq = head :: rest →
        exec .txDone s = .next { s with txq := rest }) ∧
      (∀ dt : U32, dt ≠ 0 →
        exec (.advance dt) s = .next { s with nowMs := BitVec.ofNat 32 (s.nowMs.toNat + dt.toNat) }) ∧
      ∀ i : Chan, ∃ t, exec (.overloadEdge i) s = .next t ∧ t = { s with ovlEdge := t.ovlEdge } ∧
        ∀ j, t.ovlEdge.get j = if j = i then true else s.ovlEdge.get j

/-- Log 4, a DESIGN CHOICE: an agent step that the spec does not enable (40_frame_codec R171, 44_safety_supervisor
R345) changes nothing when it is chosen. -/
def Obligations.DisabledStepsChangeNothing : Prop :=
  ∀ s : State,
    (s.txq = [] → exec .txDone s = .next s) ∧
      ((s.nowMs - s.wdt.lastKickMs).toNat ≤ s.params.wdtTimeoutMs → exec .wdtExpire s = .next s)

/-- 44_safety_supervisor R345, 70_reset_and_hazards R421: an expired watchdog leaves the cold values, but for the
snapshot (taken now unless an emergency stop is active) and the flag, and the registers show both at once. -/
def Obligations.WatchdogResetResult : Prop :=
  ∀ s : State, s.params.wdtTimeoutMs < (s.nowMs - s.wdt.lastKickMs).toNat →
    let snap := if s.coord.esActive = true then s.snap else snapshotOf s
    exec .wdtExpire s =
      .next
        { State.resetWith s.params with
          snap := snap
          wdt := ⟨0, true⟩
          regs :=
            { RegStore.reset with
              system := { RegStore.reset.system with sysStatus := 0x0004 }
              channels :=
                Quad.ofFn fun i =>
                  { ChannelRegs.reset with
                    prevState := if snap.valid = true then (snap.state.get i).code else 0xFFFF
                    prevAmplitude := if snap.valid = true then snap.amp.get i else 0 } }
          env :=
            { s.env with
              diag := s.env.diag ++ (if s.coord.esActive = true then [] else [.snapshotTaken]) ++ [.watchdogReset]
              outputs := s.env.outputs ++ callsFor (fun _ => false) (fun _ => 20) } }

/-- 70_reset_and_hazards R420: the cold reset, with the parameters kept (R423) and its output calls made. -/
def Obligations.PowerOnResult : Prop :=
  ∀ s : State,
    exec .powerOn s =
      .next
        { State.resetWith s.params with
          env := { s.env with outputs := s.env.outputs ++ callsFor (fun _ => false) (fun _ => 20) } }

/-- 70_reset_and_hazards R420: `POWER_ON` completes from every state, and leaves the values of the cold-reset table, the
output calls and the diagnostics stream as the rule says; the parameters stay (R423). -/
def Obligations.PowerOnLeavesTheColdValues : Prop :=
  ∀ s : State, ∃ t, exec .powerOn s = .next t ∧
    (∀ i : Chan, t.channels.get i = ⟨.stopped, 0, false, false⟩) ∧ t.coord = ⟨.idle, false, 0, 0, 0⟩ ∧
    t.stats = ⟨0, 0, 0, 0, 0, 0, 0, 0, 0, 0⟩ ∧ t.link = ⟨false, false, 0⟩ ∧ t.wdt = ⟨0, false⟩ ∧
    (t.snap.valid = false ∧ ∀ i, t.snap.state.get i = .stopped ∧ t.snap.amp.get i = 0) ∧
    t.rxq = [] ∧ t.txq = [] ∧ (∀ i, t.ovlEdge.get i = false) ∧ t.nowMs = 0 ∧
    (∀ i, t.runOut.get i = false ∧ t.ampOut.get i = 20) ∧ (∀ r, t.latches.get r = none) ∧
    (∀ r : SysReg, t.regs.get (.sys r) = 0) ∧ (∀ r : GlobReg, t.regs.get (.glob r) = 0) ∧
    (∀ i, t.regs.channels.get i = ⟨0, 20, 0, 0, 0, 0, 0, 0xFFFF, 0⟩) ∧
    t.env.outputs = s.env.outputs ++ callsFor (fun _ => false) (fun _ => 20) ∧ t.env.diag = s.env.diag ∧
    t.params = s.params

/-! ### The tick (70_reset_and_hazards) -/

/-- 70_reset_and_hazards R430: the eight phases in their order, on the state the previous phase left. -/
def Obligations.TickRunsThePhasesInOrder : Prop :=
  ∀ s : State,
    let a := consumeLatches s
    let b := consumeEdge 3 (consumeEdge 2 (consumeEdge 1 (consumeEdge 0 a)))
    let c := updateAll b
    let d := reflect c
    ∃ e, processFrame d = .next e ∧ exec .tick s = .next (wdtKick (applyOutputs (commTimeoutCheck e)))

/-- 70_reset_and_hazards R436, R437, 44_safety_supervisor R340, 60_exceptions R407: every tick completes; after it the
outputs follow the channels and the setpoints, the eight calls are made, and the watchdog is kicked. -/
def Obligations.TickAppliesOutputsAndKicks : Prop :=
  ∀ s : State, ∃ t, exec .tick s = .next t ∧
    (∀ i, t.runOut.get i = decide (t.channels.get i).Active) ∧
    (∀ i, t.ampOut.get i = (t.regs.channels.get i).amplitudeSetpoint) ∧
    t.env.outputs = s.env.outputs ++ callsFor t.runOut.get t.ampOut.get ∧
    t.wdt.lastKickMs = s.nowMs ∧ t.nowMs = s.nowMs

/-- 70_reset_and_hazards R431, R432: a tick that answers no frame leaves no latch pending and no overload edge set. -/
def Obligations.TickConsumesLatchesAndEdges : Prop :=
  ∀ s : State, s.rxq = [] → ∃ t, exec .tick s = .next t ∧
    (∀ r, t.latches.get r = none) ∧ ∀ i, t.ovlEdge.get i = false

/-- 70_reset_and_hazards R432, 60_exceptions R388: an overload edge leaves its channel in Overload at the end of the
tick, whatever the latches held. -/
def Obligations.OverloadEdgeForcesOverload : Prop :=
  ∀ (s : State) (i : Chan), s.ovlEdge.get i = true →
    ∃ t, exec .tick s = .next t ∧ (t.channels.get i).state = .overload ∧ t.runOut.get i = false

/-- 41_register_access R210, 60_exceptions R387, 44_safety_supervisor R350, R352: a nonzero `EMERGENCY_STOP` latch
dominates every start latched with it, and takes the snapshot where no emergency stop was active. Where no overload edge
and no communication timeout follows in the same tick, `fault_code` is 5 after it. -/
def Obligations.EmergencyLatchDominates : Prop :=
  ∀ (s : State) (v : Word), s.latches.emergencyStop = some v → v ≠ 0 →
    ∃ t, exec .tick s = .next t ∧ t.coord.esActive = true ∧
      (∀ i, ¬(t.channels.get i).Active ∧ t.runOut.get i = false) ∧
      t.snap = (if s.coord.esActive = true then s.snap else snapshotOf s) ∧
      ((∀ i, s.ovlEdge.get i = false) → LinkQuiet s → t.coord.faultCode = 5)

/-- 41_register_access R210, 43_coordinator R294: a zero `EMERGENCY_STOP` latch ends the emergency stop when the link is
healthy. -/
def Obligations.EmergencyLatchZeroClears : Prop :=
  ∀ s : State, s.latches.emergencyStop = some 0 → s.link.commFault = false → LinkQuiet s →
    ∃ t, exec .tick s = .next t ∧ t.coord.esActive = false ∧ t.coord.masterState ≠ .emergencyStop

/-- 41_register_access R213, 70_reset_and_hazards R440: what a `START_STOP(i)` latch has done by the end of the tick. -/
def Obligations.StartStopLatchActs : Prop :=
  ∀ (s : State) (i : Chan), s.latches.emergencyStop = none → s.ovlEdge.get i = false →
    ∃ t, exec .tick s = .next t ∧
      ((s.latches.channels.get i).startStop = some 1 → s.regs.globals.globalEnable ≠ 0 →
        s.coord.esActive = false → (s.channels.get i).state = .stopped → (s.channels.get i).inhibit = false →
          LinkQuiet s → (t.channels.get i).state = .running ∧ t.runOut.get i = true) ∧
      ((s.latches.channels.get i).startStop = some 1 →
        s.regs.globals.globalEnable = 0 ∨ s.coord.esActive = true → (s.channels.get i).state = .stopped →
          (t.channels.get i).state = .stopped ∧ t.runOut.get i = false) ∧
      ((s.latches.channels.get i).startStop = some 0 → (s.channels.get i).Active →
        (t.channels.get i).state = .stopped ∧ t.runOut.get i = false)

/-- 41_register_access R211, R212, R214, 70_reset_and_hazards R443: the pulse registers read 0 after a tick that
consumed them and answered no frame; a `SYSTEM_RESET` pulse clears the statistics and the watchdog flag. Whatever the
frames: an `OVERLOAD_RESET(i)` pulse leaves a faulted channel Stopped; the reset comes before a start latched with it, so
with a start that passes the channel is Running after the tick. -/
def Obligations.PulseRegistersAreConsumed : Prop :=
  ∀ s : State, ∃ t, exec .tick s = .next t ∧
    (s.rxq = [] →
      (∀ v, s.latches.systemReset = some v → v ≠ 0 →
        t.regs.globals.systemReset = 0 ∧ t.wdt.flag = false ∧ (LinkQuiet s → t.stats = Stats.reset)) ∧
      ∀ i, (s.latches.channels.get i).overloadReset = some 1 → (t.regs.channels.get i).overloadReset = 0) ∧
    ∀ i, (s.channels.get i).Faulted → (s.latches.channels.get i).overloadReset = some 1 → s.ovlEdge.get i = false →
      ((s.latches.channels.get i).startStop ≠ some 1 ∨ s.regs.globals.globalEnable = 0 →
        (t.channels.get i).state = .stopped ∧ t.runOut.get i = false) ∧
      ((s.latches.channels.get i).startStop = some 1 → s.regs.globals.globalEnable ≠ 0 →
        (s.channels.get i).inhibit = false → s.coord.esActive = false → s.latches.emergencyStop = none →
          LinkQuiet s → (t.channels.get i).state = .running ∧ t.runOut.get i = true)

/-- 70_reset_and_hazards R433, 10_state R22, R23, R28, R29, 44_safety_supervisor R356: what phase D writes. The sampled
values are free (log 2). -/
def Obligations.ReflectionShowsTheState : Prop :=
  ∀ s : State,
    let t := reflect s
    let sys := t.regs.system
    t = { s with regs := t.regs, env := { s.env with sampleNo := s.env.sampleNo + 1 } } ∧
      t.regs.globals = s.regs.globals ∧
      (sys.sysStatus.getLsbD 0 = s.link.commFault ∧ sys.sysStatus.getLsbD 1 = s.coord.esActive ∧
        sys.sysStatus.getLsbD 2 = s.wdt.flag ∧
        sys.sysStatus.getLsbD 3 = decide (∃ i, (s.channels.get i).Faulted) ∧ sys.sysStatus.toNat < 16) ∧
      sys.activeCount.toNat = countChannels (fun i => s.coord.activeMask.getLsbD i.val) ∧
      sys.activeMask.toNat = s.coord.activeMask.toNat ∧ sys.masterState = s.coord.masterState.code ∧
      sys.faultCode = s.coord.faultCode ∧ sys.transitionCount.toNat = s.coord.transitionCount.toNat % 65536 ∧
      sys.statRequests.toNat = s.stats.requestsReceived.toNat % 65536 ∧
      sys.statResponses.toNat = s.stats.responsesSent.toNat % 65536 ∧
      sys.statCrcErrors.toNat = s.stats.crcErrors.toNat % 65536 ∧
      sys.statTimeouts.toNat = s.stats.timeoutErrors.toNat % 65536 ∧
      sys.statIllegalFunction.toNat = s.stats.illegalFunction.toNat % 65536 ∧
      sys.statIllegalAddress.toNat = s.stats.illegalAddress.toNat % 65536 ∧
      sys.statIllegalValue.toNat = s.stats.illegalValue.toNat % 65536 ∧
      sys.statSlaveFailure.toNat = s.stats.slaveFailure.toNat % 65536 ∧
      sys.statMalformed.toNat = s.stats.malformed.toNat % 65536 ∧
      sys.statMaxResponseMs.toNat = min s.stats.maxResponseMs.toNat 0xFFFF ∧
      ∀ i : Chan,
        let c := t.regs.channels.get i
        let st := (s.channels.get i).state
        c = { s.regs.channels.get i with
              power := Config.power s.env.sampleNo i
              frequency := Config.frequency s.env.sampleNo i
              statusFlags := c.statusFlags
              amplitudeActual := Config.amplitude s.env.sampleNo i
              prevState := if s.snap.valid = true then (s.snap.state.get i).code else 0xFFFF
              prevAmplitude := if s.snap.valid = true then s.snap.amp.get i else 0 } ∧
          c.statusFlags.getLsbD 0 = decide (st = .running) ∧ c.statusFlags.getLsbD 1 = decide (st = .overload) ∧
          c.statusFlags.getLsbD 2 = Config.freqLock s.env.sampleNo i ∧
          c.statusFlags.getLsbD 3 = Config.ampFault s.env.sampleNo i ∧
          c.statusFlags.getLsbD 4 = s.link.commFault ∧ c.statusFlags.getLsbD 5 = decide (st = .fault) ∧
          c.statusFlags.getLsbD 6 = decide (st = .starting) ∧ c.statusFlags.getLsbD 7 = decide (st = .stopping) ∧
          c.statusFlags.toNat < 256

/-- 44_safety_supervisor R332, R333: phase F fires exactly when an armed link without a latched fault has been silent
for longer than `COMM_TIMEOUT_MS`, and then shuts the block down. -/
def Obligations.CommTimeoutShutsDown : Prop :=
  ∀ s : State,
    (LinkQuiet s → commTimeoutCheck s = s) ∧
      (s.link.commArmed = true → s.link.commFault = false →
        s.params.commTimeoutMs < (s.nowMs - s.link.lastValidMs).toNat →
          commTimeoutCheck s =
            ((({ s with
                  link := { s.link with commFault := true }
                  stats := { s.stats with timeoutErrors := s.stats.timeoutErrors + 1 } } : State).shutdown 4).logged
              [.commTimeout]))

/-! ### Rules of the whole machine -/

/-- 60_exceptions R375: every operation has a next state; the one fault of the model is never raised, so `step` never
stops. -/
def Obligations.EveryOperationHasANextState : Prop :=
  (∀ (i : Instr) (s : State), ∃ t, exec i s = .next t) ∧ ∀ s : State, ∃ t, step s = .next t

/-- 00_scope R7, 60_exceptions R386, 40_frame_codec R156; the order of agent steps and the placing of a table word are
the model's (log 3, log 7). A step runs the operation its agent step decodes to; a tick runs the request the head of
`rxq` decodes to, between phases A to D and phases F to H. -/
def Obligations.StepRunsTheDecodedOperation : Prop :=
  (∀ (s : State) (x : Input) (rest : List Input), s.env.inbox = x :: rest →
      step s = exec (decodeInput x) { s with env := { s.env with inbox := rest } }) ∧
    (∀ s : State, s.env.inbox = [] →
      step s = exec (decodeInput (Config.agentStep s.env.turn)) { s with env := { s.env with turn := s.env.turn + 1 } }) ∧
    (∀ (s : State) (e : RxEntry) (rest : List RxEntry) (i : Instr), s.rxq = e :: rest →
      decode s.params.slaveAddr (.wire e.bytes) = .ok i →
        ∃ t, exec i (takeFrame e rest (tickBeforeFrame s)) = .next t ∧ exec .tick s = .next (tickAfterFrame t)) ∧
    ∀ (s : State) (w : Nat),
      step (s.withFetchWord 16 w) = exec (decodeCommand (BitVec.ofNat 16 w)) s ∧
        ∀ nbits, nbits ≠ 16 →
          step (s.withFetchWord nbits w) =
            exec .tick { s with rxq := ⟨tableFrame s.params.slaveAddr nbits w, s.nowMs⟩ :: s.rxq.tail }

/-- 10_state R20: only the two write requests, the tick and the resets write a register or a latch, and a write request
never changes a register that is not writable. -/
def Obligations.StoreIsWrittenOnlyByItsWriters : Prop :=
  ∀ (i : Instr) (s t : State), exec i s = .next t →
    (i ≠ .tick → i ≠ .wdtExpire → i ≠ .powerOn →
      ∀ r : Reg, r.cls = .ro ∨ r.cls = .roDiag → t.regs.get r = s.regs.get r) ∧
      (i ≠ .tick → i ≠ .wdtExpire → i ≠ .powerOn → (∀ a v, i ≠ .writeSingleRegister a v) →
        (∀ a q bc d, i ≠ .writeMultipleRegisters a q bc d) → t.regs = s.regs ∧ t.latches = s.latches)

/-- 44_safety_supervisor R355: an Overload or Fault channel leaves those states only by an explicit reset of that channel
or a block reset, and `fault_code` is cleared only by a block reset. -/
def Obligations.FaultedChannelLeavesOnlyByReset : Prop :=
  (∀ (i : Instr) (s t : State) (c : Chan), exec i s = .next t → (s.channels.get c).Faulted →
    ¬(t.channels.get c).Faulted →
      (∃ idx : Byte, i = .unitReset idx ∧ idx.toNat = c.val) ∨
        (i = .tick ∧ (s.latches.channels.get c).overloadReset = some 1) ∨ i = .powerOn ∨
        (i = .wdtExpire ∧ s.params.wdtTimeoutMs < (s.nowMs - s.wdt.lastKickMs).toNat)) ∧
    ∀ (i : Instr) (s t : State), exec i s = .next t → s.coord.faultCode ≠ 0 → t.coord.faultCode = 0 →
      i = .powerOn ∨ (i = .wdtExpire ∧ s.params.wdtTimeoutMs < (s.nowMs - s.wdt.lastKickMs).toNat)

/-- 42_channel_fsm R241: a channel becomes active only by an explicit start request for it, and a start word is accepted
only from Stopped and outside an emergency stop. -/
def Obligations.NoAutomaticStart : Prop :=
  ∀ (i : Instr) (s t : State) (c : Chan), exec i s = .next t → ¬(s.channels.get c).Active →
    (t.channels.get c).Active →
      (((∃ idx : Byte, i = .unitStart idx ∧ idx.toNat = c.val) ∨
            ∃ mask : BitVec 4, i = .coordStart mask ∧ mask.getLsbD c.val = true) ∧
          s.coord.esActive = false ∧ (s.channels.get c).state = .stopped) ∨
        (i = .tick ∧ (s.latches.channels.get c).startStop = some 1 ∧ s.regs.globals.globalEnable ≠ 0)

/-- 43_coordinator R293: while `es_active` holds, every start is rejected, whatever its source; the derived master state
is EmergencyStop; and only the clear of a healthy link, or a reset, ends it. -/
def Obligations.EmergencyStopDominates : Prop :=
  ∀ s : State, s.coord.esActive = true →
    (∀ mask, exec (.coordStart mask) s = .next (s.returns false)) ∧
      (∀ idx, exec (.unitStart idx) s = .next (s.returns false)) ∧
      (∀ i, (s.latches.channels.get i).startStop = some 1 →
        (consumeStartStop i s).channels = s.channels ∧ (consumeStartStop i s).coord = s.coord) ∧
      derive s = .emergencyStop ∧
      ∀ (i : Instr) (t : State), exec i s = .next t → t.coord.esActive = false →
        (i = .clearEstop ∧ s.link.commFault = false) ∨
          (i = .tick ∧ s.latches.emergencyStop = some 0 ∧ s.link.commFault = false) ∨ i = .powerOn ∨
          (i = .wdtExpire ∧ s.params.wdtTimeoutMs < (s.nowMs - s.wdt.lastKickMs).toNat)

/-- 43_coordinator R302: `transition_count` never decreases, but for a block reset (60_exceptions R402). -/
def Obligations.TransitionCountNeverDecreases : Prop :=
  ∀ (i : Instr) (s t : State), exec i s = .next t → i ≠ .powerOn → i ≠ .wdtExpire →
    s.coord.transitionCount.toNat ≤ t.coord.transitionCount.toNat

/-- 70_reset_and_hazards R423. -/
def Obligations.ParametersNeverChange : Prop :=
  (∀ (i : Instr) (s t : State), exec i s = .next t → t.params = s.params) ∧
    ∀ s t : State, step s = .next t → t.params = s.params

/-- 44_safety_supervisor R353: every `run_out` is off after a tick that ends in an emergency stop, and after a reset. -/
def Obligations.OutputsOffInEmergencyStop : Prop :=
  ∀ s t : State, CoordInv s →
    (exec .tick s = .next t → t.coord.esActive = true → OutputsOff t) ∧ (exec .powerOn s = .next t → OutputsOff t) ∧
      (s.params.wdtTimeoutMs < (s.nowMs - s.wdt.lastKickMs).toNat → exec .wdtExpire s = .next t → OutputsOff t)

/-! ### Invariants -/

/-- 10_state R30, R33, R34, 43_coordinator R302: every step keeps the invariant of the channels and the coordinator. -/
def Obligations.StepKeepsCoordInv : Prop :=
  ∀ s t : State, CoordInv s → step s = .next t → CoordInv t

/-- 10_state R21 to R29, R31, R33: every step keeps the invariant of the register store and the latches. -/
def Obligations.StepKeepsRegInv : Prop :=
  ∀ s t : State, CoordInv s → RegInv s → step s = .next t → RegInv t

/-- 10_state R39, 30_encoding R101, 40_frame_codec R166, 60_exceptions R375: every step keeps the invariant of the
queues and of the slave-failure counter. -/
def Obligations.StepKeepsCommsInv : Prop :=
  ∀ s t : State, CommsInv s → step s = .next t → CommsInv t

/-- The three invariants hold after a cold reset, for any parameters (70_reset_and_hazards R420). -/
def Obligations.ResetMeetsTheInvariants : Prop :=
  ∀ p : Params, CoordInv (State.resetWith p) ∧ RegInv (State.resetWith p) ∧ CommsInv (State.resetWith p)

end
end

