-- ==== Sys2Proof/Laws/Quad.lean ====
section
/-! SUPPORT. The small lemmas of `Quad`: reading after a write, and a quad given by its four elements. -/

namespace Sys2Proof.Machine

theorem Quad.get_set {α : Type} (q : Quad α) (i j : Chan) (a : α) :
    (q.set i a).get j = if j = i then a else q.get j := by
  match i, j with
  | 0, 0 | 0, 1 | 0, 2 | 0, 3 | 1, 0 | 1, 1 | 1, 2 | 1, 3 => rfl
  | 2, 0 | 2, 1 | 2, 2 | 2, 3 | 3, 0 | 3, 1 | 3, 2 | 3, 3 => rfl

@[simp] theorem Quad.get_set_self {α : Type} (q : Quad α) (i : Chan) (a : α) : (q.set i a).get i = a := by
  simp [Quad.get_set]

@[simp] theorem Quad.get_ofFn {α : Type} (f : Chan → α) (i : Chan) : (Quad.ofFn f).get i = f i := by
  match i with
  | 0 | 1 | 2 | 3 => rfl

@[simp] theorem Quad.set_get_self {α : Type} (q : Quad α) (i : Chan) : q.set i (q.get i) = q := by
  match i with
  | 0 | 1 | 2 | 3 => rfl

@[simp] theorem Quad.set_set {α : Type} (q : Quad α) (i : Chan) (a b : α) : (q.set i a).set i b = q.set i b := by
  match i with
  | 0 | 1 | 2 | 3 => rfl

@[simp] theorem Quad.ofFn_get {α : Type} (q : Quad α) : Quad.ofFn q.get = q := rfl

theorem Quad.ext_get {α : Type} {p q : Quad α} (h : ∀ i, p.get i = q.get i) : p = q := by
  rw [← Quad.ofFn_get p, ← Quad.ofFn_get q, show p.get = q.get from funext h]

/-- Bit `i` of the mask of a quad is element `i`. -/
@[simp] theorem maskBit_maskOfQuad (q : Quad Bool) (i : Chan) : maskBit (maskOfQuad q) i = q.get i := by
  obtain ⟨a, b, c, d⟩ := q
  revert i a b c d
  decide

theorem maskOfQuad_eq_zero (q : Quad Bool) : maskOfQuad q = 0 ↔ ∀ i, q.get i = false := by
  obtain ⟨a, b, c, d⟩ := q
  revert a b c d
  decide

theorem mask_ext {m n : BitVec 4} (h : ∀ i, maskBit m i = maskBit n i) : m = n := by
  apply BitVec.eq_of_getLsbD_eq
  intro i hi
  exact h ⟨i, hi⟩

end Sys2Proof.Machine
end

