-- ==== Sys2Proof/Laws/State.lean ====
section
/-! SUPPORT. One lemma per field per named update of the state, each true by rfl, so that no later proof unfolds a
record update. -/

namespace Sys2Proof.Machine

/-! `State.setReg` -/

@[simp] theorem State.setReg_params (s : State) (r : Reg) (v : Word) : (s.setReg r v).params = s.params := rfl
@[simp] theorem State.setReg_regs (s : State) (r : Reg) (v : Word) : (s.setReg r v).regs = s.regs.set r v := rfl
@[simp] theorem State.setReg_latches (s : State) (r : Reg) (v : Word) : (s.setReg r v).latches = s.latches := rfl
@[simp] theorem State.setReg_channels (s : State) (r : Reg) (v : Word) : (s.setReg r v).channels = s.channels := rfl
@[simp] theorem State.setReg_coord (s : State) (r : Reg) (v : Word) : (s.setReg r v).coord = s.coord := rfl
@[simp] theorem State.setReg_stats (s : State) (r : Reg) (v : Word) : (s.setReg r v).stats = s.stats := rfl
@[simp] theorem State.setReg_link (s : State) (r : Reg) (v : Word) : (s.setReg r v).link = s.link := rfl
@[simp] theorem State.setReg_wdt (s : State) (r : Reg) (v : Word) : (s.setReg r v).wdt = s.wdt := rfl
@[simp] theorem State.setReg_snap (s : State) (r : Reg) (v : Word) : (s.setReg r v).snap = s.snap := rfl
@[simp] theorem State.setReg_rxq (s : State) (r : Reg) (v : Word) : (s.setReg r v).rxq = s.rxq := rfl
@[simp] theorem State.setReg_txq (s : State) (r : Reg) (v : Word) : (s.setReg r v).txq = s.txq := rfl
@[simp] theorem State.setReg_ovlEdge (s : State) (r : Reg) (v : Word) : (s.setReg r v).ovlEdge = s.ovlEdge := rfl
@[simp] theorem State.setReg_nowMs (s : State) (r : Reg) (v : Word) : (s.setReg r v).nowMs = s.nowMs := rfl
@[simp] theorem State.setReg_runOut (s : State) (r : Reg) (v : Word) : (s.setReg r v).runOut = s.runOut := rfl
@[simp] theorem State.setReg_ampOut (s : State) (r : Reg) (v : Word) : (s.setReg r v).ampOut = s.ampOut := rfl
@[simp] theorem State.setReg_env (s : State) (r : Reg) (v : Word) : (s.setReg r v).env = s.env := rfl

/-! `State.setLatch` -/

@[simp] theorem State.setLatch_params (s : State) (r : Reg) (o : Option Word) :
    (s.setLatch r o).params = s.params := rfl
@[simp] theorem State.setLatch_regs (s : State) (r : Reg) (o : Option Word) : (s.setLatch r o).regs = s.regs := rfl
@[simp] theorem State.setLatch_latches (s : State) (r : Reg) (o : Option Word) :
    (s.setLatch r o).latches = s.latches.set r o := rfl
@[simp] theorem State.setLatch_channels (s : State) (r : Reg) (o : Option Word) :
    (s.setLatch r o).channels = s.channels := rfl
@[simp] theorem State.setLatch_coord (s : State) (r : Reg) (o : Option Word) : (s.setLatch r o).coord = s.coord := rfl
@[simp] theorem State.setLatch_stats (s : State) (r : Reg) (o : Option Word) : (s.setLatch r o).stats = s.stats := rfl
@[simp] theorem State.setLatch_link (s : State) (r : Reg) (o : Option Word) : (s.setLatch r o).link = s.link := rfl
@[simp] theorem State.setLatch_wdt (s : State) (r : Reg) (o : Option Word) : (s.setLatch r o).wdt = s.wdt := rfl
@[simp] theorem State.setLatch_snap (s : State) (r : Reg) (o : Option Word) : (s.setLatch r o).snap = s.snap := rfl
@[simp] theorem State.setLatch_rxq (s : State) (r : Reg) (o : Option Word) : (s.setLatch r o).rxq = s.rxq := rfl
@[simp] theorem State.setLatch_txq (s : State) (r : Reg) (o : Option Word) : (s.setLatch r o).txq = s.txq := rfl
@[simp] theorem State.setLatch_ovlEdge (s : State) (r : Reg) (o : Option Word) :
    (s.setLatch r o).ovlEdge = s.ovlEdge := rfl
@[simp] theorem State.setLatch_nowMs (s : State) (r : Reg) (o : Option Word) : (s.setLatch r o).nowMs = s.nowMs := rfl
@[simp] theorem State.setLatch_runOut (s : State) (r : Reg) (o : Option Word) :
    (s.setLatch r o).runOut = s.runOut := rfl
@[simp] theorem State.setLatch_ampOut (s : State) (r : Reg) (o : Option Word) :
    (s.setLatch r o).ampOut = s.ampOut := rfl
@[simp] theorem State.setLatch_env (s : State) (r : Reg) (o : Option Word) : (s.setLatch r o).env = s.env := rfl

/-! `State.emit` -/

@[simp] theorem State.emit_params (s : State) (ev : Event) : (s.emit ev).params = s.params := rfl
@[simp] theorem State.emit_regs (s : State) (ev : Event) : (s.emit ev).regs = s.regs := rfl
@[simp] theorem State.emit_latches (s : State) (ev : Event) : (s.emit ev).latches = s.latches := rfl
@[simp] theorem State.emit_channels (s : State) (ev : Event) : (s.emit ev).channels = s.channels := rfl
@[simp] theorem State.emit_coord (s : State) (ev : Event) : (s.emit ev).coord = s.coord := rfl
@[simp] theorem State.emit_stats (s : State) (ev : Event) : (s.emit ev).stats = s.stats := rfl
@[simp] theorem State.emit_link (s : State) (ev : Event) : (s.emit ev).link = s.link := rfl
@[simp] theorem State.emit_wdt (s : State) (ev : Event) : (s.emit ev).wdt = s.wdt := rfl
@[simp] theorem State.emit_snap (s : State) (ev : Event) : (s.emit ev).snap = s.snap := rfl
@[simp] theorem State.emit_rxq (s : State) (ev : Event) : (s.emit ev).rxq = s.rxq := rfl
@[simp] theorem State.emit_txq (s : State) (ev : Event) : (s.emit ev).txq = s.txq := rfl
@[simp] theorem State.emit_ovlEdge (s : State) (ev : Event) : (s.emit ev).ovlEdge = s.ovlEdge := rfl
@[simp] theorem State.emit_nowMs (s : State) (ev : Event) : (s.emit ev).nowMs = s.nowMs := rfl
@[simp] theorem State.emit_runOut (s : State) (ev : Event) : (s.emit ev).runOut = s.runOut := rfl
@[simp] theorem State.emit_ampOut (s : State) (ev : Event) : (s.emit ev).ampOut = s.ampOut := rfl
@[simp] theorem State.emit_env (s : State) (ev : Event) :
    (s.emit ev).env = { s.env with diag := s.env.diag ++ [ev] } := rfl

/-! `State.callOutputs` -/

@[simp] theorem State.callOutputs_params (s : State) (cs : List OutputCall) :
    (s.callOutputs cs).params = s.params := rfl
@[simp] theorem State.callOutputs_regs (s : State) (cs : List OutputCall) : (s.callOutputs cs).regs = s.regs := rfl
@[simp] theorem State.callOutputs_latches (s : State) (cs : List OutputCall) :
    (s.callOutputs cs).latches = s.latches := rfl
@[simp] theorem State.callOutputs_channels (s : State) (cs : List OutputCall) :
    (s.callOutputs cs).channels = s.channels := rfl
@[simp] theorem State.callOutputs_coord (s : State) (cs : List OutputCall) : (s.callOutputs cs).coord = s.coord := rfl
@[simp] theorem State.callOutputs_stats (s : State) (cs : List OutputCall) : (s.callOutputs cs).stats = s.stats := rfl
@[simp] theorem State.callOutputs_link (s : State) (cs : List OutputCall) : (s.callOutputs cs).link = s.link := rfl
@[simp] theorem State.callOutputs_wdt (s : State) (cs : List OutputCall) : (s.callOutputs cs).wdt = s.wdt := rfl
@[simp] theorem State.callOutputs_snap (s : State) (cs : List OutputCall) : (s.callOutputs cs).snap = s.snap := rfl
@[simp] theorem State.callOutputs_rxq (s : State) (cs : List OutputCall) : (s.callOutputs cs).rxq = s.rxq := rfl
@[simp] theorem State.callOutputs_txq (s : State) (cs : List OutputCall) : (s.callOutputs cs).txq = s.txq := rfl
@[simp] theorem State.callOutputs_ovlEdge (s : State) (cs : List OutputCall) :
    (s.callOutputs cs).ovlEdge = s.ovlEdge := rfl
@[simp] theorem State.callOutputs_nowMs (s : State) (cs : List OutputCall) : (s.callOutputs cs).nowMs = s.nowMs := rfl
@[simp] theorem State.callOutputs_runOut (s : State) (cs : List OutputCall) :
    (s.callOutputs cs).runOut = s.runOut := rfl
@[simp] theorem State.callOutputs_ampOut (s : State) (cs : List OutputCall) :
    (s.callOutputs cs).ampOut = s.ampOut := rfl
@[simp] theorem State.callOutputs_env (s : State) (cs : List OutputCall) :
    (s.callOutputs cs).env = { s.env with outputs := s.env.outputs ++ cs } := rfl

/-! `State.answer` -/

@[simp] theorem State.answer_params (s : State) (b : Bool) : (s.answer b).params = s.params := rfl
@[simp] theorem State.answer_regs (s : State) (b : Bool) : (s.answer b).regs = s.regs := rfl
@[simp] theorem State.answer_latches (s : State) (b : Bool) : (s.answer b).latches = s.latches := rfl
@[simp] theorem State.answer_channels (s : State) (b : Bool) : (s.answer b).channels = s.channels := rfl
@[simp] theorem State.answer_coord (s : State) (b : Bool) : (s.answer b).coord = s.coord := rfl
@[simp] theorem State.answer_stats (s : State) (b : Bool) : (s.answer b).stats = s.stats := rfl
@[simp] theorem State.answer_link (s : State) (b : Bool) : (s.answer b).link = s.link := rfl
@[simp] theorem State.answer_wdt (s : State) (b : Bool) : (s.answer b).wdt = s.wdt := rfl
@[simp] theorem State.answer_snap (s : State) (b : Bool) : (s.answer b).snap = s.snap := rfl
@[simp] theorem State.answer_rxq (s : State) (b : Bool) : (s.answer b).rxq = s.rxq := rfl
@[simp] theorem State.answer_txq (s : State) (b : Bool) : (s.answer b).txq = s.txq := rfl
@[simp] theorem State.answer_ovlEdge (s : State) (b : Bool) : (s.answer b).ovlEdge = s.ovlEdge := rfl
@[simp] theorem State.answer_nowMs (s : State) (b : Bool) : (s.answer b).nowMs = s.nowMs := rfl
@[simp] theorem State.answer_runOut (s : State) (b : Bool) : (s.answer b).runOut = s.runOut := rfl
@[simp] theorem State.answer_ampOut (s : State) (b : Bool) : (s.answer b).ampOut = s.ampOut := rfl
@[simp] theorem State.answer_env (s : State) (b : Bool) : (s.answer b).env = { s.env with cmdResult := some b } := rfl

/-! `State.setChannel` -/

@[simp] theorem State.setChannel_params (s : State) (i : Chan) (c : Channel) :
    (s.setChannel i c).params = s.params := rfl
@[simp] theorem State.setChannel_regs (s : State) (i : Chan) (c : Channel) : (s.setChannel i c).regs = s.regs := rfl
@[simp] theorem State.setChannel_latches (s : State) (i : Chan) (c : Channel) :
    (s.setChannel i c).latches = s.latches := rfl
@[simp] theorem State.setChannel_channels (s : State) (i : Chan) (c : Channel) :
    (s.setChannel i c).channels = s.channels.set i c := rfl
@[simp] theorem State.setChannel_coord (s : State) (i : Chan) (c : Channel) :
    (s.setChannel i c).coord = s.coord := rfl
@[simp] theorem State.setChannel_stats (s : State) (i : Chan) (c : Channel) :
    (s.setChannel i c).stats = s.stats := rfl
@[simp] theorem State.setChannel_link (s : State) (i : Chan) (c : Channel) : (s.setChannel i c).link = s.link := rfl
@[simp] theorem State.setChannel_wdt (s : State) (i : Chan) (c : Channel) : (s.setChannel i c).wdt = s.wdt := rfl
@[simp] theorem State.setChannel_snap (s : State) (i : Chan) (c : Channel) : (s.setChannel i c).snap = s.snap := rfl
@[simp] theorem State.setChannel_rxq (s : State) (i : Chan) (c : Channel) : (s.setChannel i c).rxq = s.rxq := rfl
@[simp] theorem State.setChannel_txq (s : State) (i : Chan) (c : Channel) : (s.setChannel i c).txq = s.txq := rfl
@[simp] theorem State.setChannel_ovlEdge (s : State) (i : Chan) (c : Channel) :
    (s.setChannel i c).ovlEdge = s.ovlEdge := rfl
@[simp] theorem State.setChannel_nowMs (s : State) (i : Chan) (c : Channel) :
    (s.setChannel i c).nowMs = s.nowMs := rfl
@[simp] theorem State.setChannel_runOut (s : State) (i : Chan) (c : Channel) :
    (s.setChannel i c).runOut = s.runOut := rfl
@[simp] theorem State.setChannel_ampOut (s : State) (i : Chan) (c : Channel) :
    (s.setChannel i c).ampOut = s.ampOut := rfl
@[simp] theorem State.setChannel_env (s : State) (i : Chan) (c : Channel) : (s.setChannel i c).env = s.env := rfl

/-! `State.countTransition` -/

@[simp] theorem State.countTransition_params (s : State) : (s.countTransition).params = s.params := rfl
@[simp] theorem State.countTransition_regs (s : State) : (s.countTransition).regs = s.regs := rfl
@[simp] theorem State.countTransition_latches (s : State) : (s.countTransition).latches = s.latches := rfl
@[simp] theorem State.countTransition_channels (s : State) : (s.countTransition).channels = s.channels := rfl
@[simp] theorem State.countTransition_coord (s : State) :
    (s.countTransition).coord = { s.coord with transitionCount := satIncU32 s.coord.transitionCount } := rfl
@[simp] theorem State.countTransition_stats (s : State) : (s.countTransition).stats = s.stats := rfl
@[simp] theorem State.countTransition_link (s : State) : (s.countTransition).link = s.link := rfl
@[simp] theorem State.countTransition_wdt (s : State) : (s.countTransition).wdt = s.wdt := rfl
@[simp] theorem State.countTransition_snap (s : State) : (s.countTransition).snap = s.snap := rfl
@[simp] theorem State.countTransition_rxq (s : State) : (s.countTransition).rxq = s.rxq := rfl
@[simp] theorem State.countTransition_txq (s : State) : (s.countTransition).txq = s.txq := rfl
@[simp] theorem State.countTransition_ovlEdge (s : State) : (s.countTransition).ovlEdge = s.ovlEdge := rfl
@[simp] theorem State.countTransition_nowMs (s : State) : (s.countTransition).nowMs = s.nowMs := rfl
@[simp] theorem State.countTransition_runOut (s : State) : (s.countTransition).runOut = s.runOut := rfl
@[simp] theorem State.countTransition_ampOut (s : State) : (s.countTransition).ampOut = s.ampOut := rfl
@[simp] theorem State.countTransition_env (s : State) : (s.countTransition).env = s.env := rfl

/-! `State.setFaultCode` -/

@[simp] theorem State.setFaultCode_params (s : State) (v : Word) : (s.setFaultCode v).params = s.params := rfl
@[simp] theorem State.setFaultCode_regs (s : State) (v : Word) : (s.setFaultCode v).regs = s.regs := rfl
@[simp] theorem State.setFaultCode_latches (s : State) (v : Word) : (s.setFaultCode v).latches = s.latches := rfl
@[simp] theorem State.setFaultCode_channels (s : State) (v : Word) : (s.setFaultCode v).channels = s.channels := rfl
@[simp] theorem State.setFaultCode_coord (s : State) (v : Word) :
    (s.setFaultCode v).coord = { s.coord with faultCode := v } := rfl
@[simp] theorem State.setFaultCode_stats (s : State) (v : Word) : (s.setFaultCode v).stats = s.stats := rfl
@[simp] theorem State.setFaultCode_link (s : State) (v : Word) : (s.setFaultCode v).link = s.link := rfl
@[simp] theorem State.setFaultCode_wdt (s : State) (v : Word) : (s.setFaultCode v).wdt = s.wdt := rfl
@[simp] theorem State.setFaultCode_snap (s : State) (v : Word) : (s.setFaultCode v).snap = s.snap := rfl
@[simp] theorem State.setFaultCode_rxq (s : State) (v : Word) : (s.setFaultCode v).rxq = s.rxq := rfl
@[simp] theorem State.setFaultCode_txq (s : State) (v : Word) : (s.setFaultCode v).txq = s.txq := rfl
@[simp] theorem State.setFaultCode_ovlEdge (s : State) (v : Word) : (s.setFaultCode v).ovlEdge = s.ovlEdge := rfl
@[simp] theorem State.setFaultCode_nowMs (s : State) (v : Word) : (s.setFaultCode v).nowMs = s.nowMs := rfl
@[simp] theorem State.setFaultCode_runOut (s : State) (v : Word) : (s.setFaultCode v).runOut = s.runOut := rfl
@[simp] theorem State.setFaultCode_ampOut (s : State) (v : Word) : (s.setFaultCode v).ampOut = s.ampOut := rfl
@[simp] theorem State.setFaultCode_env (s : State) (v : Word) : (s.setFaultCode v).env = s.env := rfl

/-! `clearStart` -/

@[simp] theorem clearStart_params (i : Chan) (s : State) : (clearStart i s).params = s.params := rfl
@[simp] theorem clearStart_regs (i : Chan) (s : State) : (clearStart i s).regs = s.regs := rfl
@[simp] theorem clearStart_latches (i : Chan) (s : State) : (clearStart i s).latches = s.latches := rfl
@[simp] theorem clearStart_channels (i : Chan) (s : State) :
    (clearStart i s).channels = s.channels.set i { s.channels.get i with startWait := 0, confirmed := false } := rfl
@[simp] theorem clearStart_coord (i : Chan) (s : State) : (clearStart i s).coord = s.coord := rfl
@[simp] theorem clearStart_stats (i : Chan) (s : State) : (clearStart i s).stats = s.stats := rfl
@[simp] theorem clearStart_link (i : Chan) (s : State) : (clearStart i s).link = s.link := rfl
@[simp] theorem clearStart_wdt (i : Chan) (s : State) : (clearStart i s).wdt = s.wdt := rfl
@[simp] theorem clearStart_snap (i : Chan) (s : State) : (clearStart i s).snap = s.snap := rfl
@[simp] theorem clearStart_rxq (i : Chan) (s : State) : (clearStart i s).rxq = s.rxq := rfl
@[simp] theorem clearStart_txq (i : Chan) (s : State) : (clearStart i s).txq = s.txq := rfl
@[simp] theorem clearStart_ovlEdge (i : Chan) (s : State) : (clearStart i s).ovlEdge = s.ovlEdge := rfl
@[simp] theorem clearStart_nowMs (i : Chan) (s : State) : (clearStart i s).nowMs = s.nowMs := rfl
@[simp] theorem clearStart_runOut (i : Chan) (s : State) : (clearStart i s).runOut = s.runOut := rfl
@[simp] theorem clearStart_ampOut (i : Chan) (s : State) : (clearStart i s).ampOut = s.ampOut := rfl
@[simp] theorem clearStart_env (i : Chan) (s : State) : (clearStart i s).env = s.env := rfl

/-! `setEsActive` -/

@[simp] theorem setEsActive_params (b : Bool) (s : State) : (setEsActive b s).params = s.params := rfl
@[simp] theorem setEsActive_regs (b : Bool) (s : State) : (setEsActive b s).regs = s.regs := rfl
@[simp] theorem setEsActive_latches (b : Bool) (s : State) : (setEsActive b s).latches = s.latches := rfl
@[simp] theorem setEsActive_channels (b : Bool) (s : State) : (setEsActive b s).channels = s.channels := rfl
@[simp] theorem setEsActive_coord (b : Bool) (s : State) :
    (setEsActive b s).coord = { s.coord with esActive := b } := rfl
@[simp] theorem setEsActive_stats (b : Bool) (s : State) : (setEsActive b s).stats = s.stats := rfl
@[simp] theorem setEsActive_link (b : Bool) (s : State) : (setEsActive b s).link = s.link := rfl
@[simp] theorem setEsActive_wdt (b : Bool) (s : State) : (setEsActive b s).wdt = s.wdt := rfl
@[simp] theorem setEsActive_snap (b : Bool) (s : State) : (setEsActive b s).snap = s.snap := rfl
@[simp] theorem setEsActive_rxq (b : Bool) (s : State) : (setEsActive b s).rxq = s.rxq := rfl
@[simp] theorem setEsActive_txq (b : Bool) (s : State) : (setEsActive b s).txq = s.txq := rfl
@[simp] theorem setEsActive_ovlEdge (b : Bool) (s : State) : (setEsActive b s).ovlEdge = s.ovlEdge := rfl
@[simp] theorem setEsActive_nowMs (b : Bool) (s : State) : (setEsActive b s).nowMs = s.nowMs := rfl
@[simp] theorem setEsActive_runOut (b : Bool) (s : State) : (setEsActive b s).runOut = s.runOut := rfl
@[simp] theorem setEsActive_ampOut (b : Bool) (s : State) : (setEsActive b s).ampOut = s.ampOut := rfl
@[simp] theorem setEsActive_env (b : Bool) (s : State) : (setEsActive b s).env = s.env := rfl

/-! `recomputeActive` -/

@[simp] theorem recomputeActive_params (s : State) : (recomputeActive s).params = s.params := rfl
@[simp] theorem recomputeActive_regs (s : State) : (recomputeActive s).regs = s.regs := rfl
@[simp] theorem recomputeActive_latches (s : State) : (recomputeActive s).latches = s.latches := rfl
@[simp] theorem recomputeActive_channels (s : State) : (recomputeActive s).channels = s.channels := rfl
@[simp] theorem recomputeActive_coord (s : State) :
    (recomputeActive s).coord = { s.coord with activeMask := activeMaskOf s } := rfl
@[simp] theorem recomputeActive_stats (s : State) : (recomputeActive s).stats = s.stats := rfl
@[simp] theorem recomputeActive_link (s : State) : (recomputeActive s).link = s.link := rfl
@[simp] theorem recomputeActive_wdt (s : State) : (recomputeActive s).wdt = s.wdt := rfl
@[simp] theorem recomputeActive_snap (s : State) : (recomputeActive s).snap = s.snap := rfl
@[simp] theorem recomputeActive_rxq (s : State) : (recomputeActive s).rxq = s.rxq := rfl
@[simp] theorem recomputeActive_txq (s : State) : (recomputeActive s).txq = s.txq := rfl
@[simp] theorem recomputeActive_ovlEdge (s : State) : (recomputeActive s).ovlEdge = s.ovlEdge := rfl
@[simp] theorem recomputeActive_nowMs (s : State) : (recomputeActive s).nowMs = s.nowMs := rfl
@[simp] theorem recomputeActive_runOut (s : State) : (recomputeActive s).runOut = s.runOut := rfl
@[simp] theorem recomputeActive_ampOut (s : State) : (recomputeActive s).ampOut = s.ampOut := rfl
@[simp] theorem recomputeActive_env (s : State) : (recomputeActive s).env = s.env := rfl

/-! `countRequest` -/

@[simp] theorem countRequest_params (s : State) : (countRequest s).params = s.params := rfl
@[simp] theorem countRequest_regs (s : State) : (countRequest s).regs = s.regs := rfl
@[simp] theorem countRequest_latches (s : State) : (countRequest s).latches = s.latches := rfl
@[simp] theorem countRequest_channels (s : State) : (countRequest s).channels = s.channels := rfl
@[simp] theorem countRequest_coord (s : State) : (countRequest s).coord = s.coord := rfl
@[simp] theorem countRequest_stats (s : State) :
    (countRequest s).stats = { s.stats with requestsReceived := s.stats.requestsReceived + 1 } := rfl
@[simp] theorem countRequest_link (s : State) : (countRequest s).link = s.link := rfl
@[simp] theorem countRequest_wdt (s : State) : (countRequest s).wdt = s.wdt := rfl
@[simp] theorem countRequest_snap (s : State) : (countRequest s).snap = s.snap := rfl
@[simp] theorem countRequest_rxq (s : State) : (countRequest s).rxq = s.rxq := rfl
@[simp] theorem countRequest_txq (s : State) : (countRequest s).txq = s.txq := rfl
@[simp] theorem countRequest_ovlEdge (s : State) : (countRequest s).ovlEdge = s.ovlEdge := rfl
@[simp] theorem countRequest_nowMs (s : State) : (countRequest s).nowMs = s.nowMs := rfl
@[simp] theorem countRequest_runOut (s : State) : (countRequest s).runOut = s.runOut := rfl
@[simp] theorem countRequest_ampOut (s : State) : (countRequest s).ampOut = s.ampOut := rfl
@[simp] theorem countRequest_env (s : State) : (countRequest s).env = s.env := rfl

/-! `countMalformed` -/

@[simp] theorem countMalformed_params (s : State) : (countMalformed s).params = s.params := rfl
@[simp] theorem countMalformed_regs (s : State) : (countMalformed s).regs = s.regs := rfl
@[simp] theorem countMalformed_latches (s : State) : (countMalformed s).latches = s.latches := rfl
@[simp] theorem countMalformed_channels (s : State) : (countMalformed s).channels = s.channels := rfl
@[simp] theorem countMalformed_coord (s : State) : (countMalformed s).coord = s.coord := rfl
@[simp] theorem countMalformed_stats (s : State) :
    (countMalformed s).stats = { s.stats with malformed := s.stats.malformed + 1 } := rfl
@[simp] theorem countMalformed_link (s : State) : (countMalformed s).link = s.link := rfl
@[simp] theorem countMalformed_wdt (s : State) : (countMalformed s).wdt = s.wdt := rfl
@[simp] theorem countMalformed_snap (s : State) : (countMalformed s).snap = s.snap := rfl
@[simp] theorem countMalformed_rxq (s : State) : (countMalformed s).rxq = s.rxq := rfl
@[simp] theorem countMalformed_txq (s : State) : (countMalformed s).txq = s.txq := rfl
@[simp] theorem countMalformed_ovlEdge (s : State) : (countMalformed s).ovlEdge = s.ovlEdge := rfl
@[simp] theorem countMalformed_nowMs (s : State) : (countMalformed s).nowMs = s.nowMs := rfl
@[simp] theorem countMalformed_runOut (s : State) : (countMalformed s).runOut = s.runOut := rfl
@[simp] theorem countMalformed_ampOut (s : State) : (countMalformed s).ampOut = s.ampOut := rfl
@[simp] theorem countMalformed_env (s : State) : (countMalformed s).env = s.env := rfl

/-! `countCrcError` -/

@[simp] theorem countCrcError_params (s : State) : (countCrcError s).params = s.params := rfl
@[simp] theorem countCrcError_regs (s : State) : (countCrcError s).regs = s.regs := rfl
@[simp] theorem countCrcError_latches (s : State) : (countCrcError s).latches = s.latches := rfl
@[simp] theorem countCrcError_channels (s : State) : (countCrcError s).channels = s.channels := rfl
@[simp] theorem countCrcError_coord (s : State) : (countCrcError s).coord = s.coord := rfl
@[simp] theorem countCrcError_stats (s : State) :
    (countCrcError s).stats = { s.stats with crcErrors := s.stats.crcErrors + 1 } := rfl
@[simp] theorem countCrcError_link (s : State) : (countCrcError s).link = s.link := rfl
@[simp] theorem countCrcError_wdt (s : State) : (countCrcError s).wdt = s.wdt := rfl
@[simp] theorem countCrcError_snap (s : State) : (countCrcError s).snap = s.snap := rfl
@[simp] theorem countCrcError_rxq (s : State) : (countCrcError s).rxq = s.rxq := rfl
@[simp] theorem countCrcError_txq (s : State) : (countCrcError s).txq = s.txq := rfl
@[simp] theorem countCrcError_ovlEdge (s : State) : (countCrcError s).ovlEdge = s.ovlEdge := rfl
@[simp] theorem countCrcError_nowMs (s : State) : (countCrcError s).nowMs = s.nowMs := rfl
@[simp] theorem countCrcError_runOut (s : State) : (countCrcError s).runOut = s.runOut := rfl
@[simp] theorem countCrcError_ampOut (s : State) : (countCrcError s).ampOut = s.ampOut := rfl
@[simp] theorem countCrcError_env (s : State) : (countCrcError s).env = s.env := rfl

/-! `refreshLink` -/

@[simp] theorem refreshLink_params (s : State) : (refreshLink s).params = s.params := rfl
@[simp] theorem refreshLink_regs (s : State) : (refreshLink s).regs = s.regs := rfl
@[simp] theorem refreshLink_latches (s : State) : (refreshLink s).latches = s.latches := rfl
@[simp] theorem refreshLink_channels (s : State) : (refreshLink s).channels = s.channels := rfl
@[simp] theorem refreshLink_coord (s : State) : (refreshLink s).coord = s.coord := rfl
@[simp] theorem refreshLink_stats (s : State) : (refreshLink s).stats = s.stats := rfl
@[simp] theorem refreshLink_link (s : State) :
    (refreshLink s).link = { commArmed := true, commFault := false, lastValidMs := s.nowMs } := rfl
@[simp] theorem refreshLink_wdt (s : State) : (refreshLink s).wdt = s.wdt := rfl
@[simp] theorem refreshLink_snap (s : State) : (refreshLink s).snap = s.snap := rfl
@[simp] theorem refreshLink_rxq (s : State) : (refreshLink s).rxq = s.rxq := rfl
@[simp] theorem refreshLink_txq (s : State) : (refreshLink s).txq = s.txq := rfl
@[simp] theorem refreshLink_ovlEdge (s : State) : (refreshLink s).ovlEdge = s.ovlEdge := rfl
@[simp] theorem refreshLink_nowMs (s : State) : (refreshLink s).nowMs = s.nowMs := rfl
@[simp] theorem refreshLink_runOut (s : State) : (refreshLink s).runOut = s.runOut := rfl
@[simp] theorem refreshLink_ampOut (s : State) : (refreshLink s).ampOut = s.ampOut := rfl
@[simp] theorem refreshLink_env (s : State) : (refreshLink s).env = s.env := rfl

/-! `send` -/

@[simp] theorem send_params (resp : List Byte) (s : State) : (send resp s).params = s.params := rfl
@[simp] theorem send_regs (resp : List Byte) (s : State) : (send resp s).regs = s.regs := rfl
@[simp] theorem send_latches (resp : List Byte) (s : State) : (send resp s).latches = s.latches := rfl
@[simp] theorem send_channels (resp : List Byte) (s : State) : (send resp s).channels = s.channels := rfl
@[simp] theorem send_coord (resp : List Byte) (s : State) : (send resp s).coord = s.coord := rfl
@[simp] theorem send_stats (resp : List Byte) (s : State) :
    (send resp s).stats =
      { s.stats with responsesSent := s.stats.responsesSent + 1, maxResponseMs := maxU32 s.stats.maxResponseMs (elapsedMs s.nowMs s.env.arrivedMs) } :=
  rfl
@[simp] theorem send_link (resp : List Byte) (s : State) :
    (send resp s).link = { commArmed := true, commFault := false, lastValidMs := s.nowMs } := rfl
@[simp] theorem send_wdt (resp : List Byte) (s : State) : (send resp s).wdt = s.wdt := rfl
@[simp] theorem send_snap (resp : List Byte) (s : State) : (send resp s).snap = s.snap := rfl
@[simp] theorem send_rxq (resp : List Byte) (s : State) : (send resp s).rxq = s.rxq := rfl
@[simp] theorem send_txq (resp : List Byte) (s : State) : (send resp s).txq = s.txq ++ [resp] := rfl
@[simp] theorem send_ovlEdge (resp : List Byte) (s : State) : (send resp s).ovlEdge = s.ovlEdge := rfl
@[simp] theorem send_nowMs (resp : List Byte) (s : State) : (send resp s).nowMs = s.nowMs := rfl
@[simp] theorem send_runOut (resp : List Byte) (s : State) : (send resp s).runOut = s.runOut := rfl
@[simp] theorem send_ampOut (resp : List Byte) (s : State) : (send resp s).ampOut = s.ampOut := rfl
@[simp] theorem send_env (resp : List Byte) (s : State) : (send resp s).env = s.env := rfl

/-! `takeSnapshot` -/

@[simp] theorem takeSnapshot_params (s : State) : (takeSnapshot s).params = s.params := rfl
@[simp] theorem takeSnapshot_regs (s : State) : (takeSnapshot s).regs = s.regs := rfl
@[simp] theorem takeSnapshot_latches (s : State) : (takeSnapshot s).latches = s.latches := rfl
@[simp] theorem takeSnapshot_channels (s : State) : (takeSnapshot s).channels = s.channels := rfl
@[simp] theorem takeSnapshot_coord (s : State) : (takeSnapshot s).coord = s.coord := rfl
@[simp] theorem takeSnapshot_stats (s : State) : (takeSnapshot s).stats = s.stats := rfl
@[simp] theorem takeSnapshot_link (s : State) : (takeSnapshot s).link = s.link := rfl
@[simp] theorem takeSnapshot_wdt (s : State) : (takeSnapshot s).wdt = s.wdt := rfl
@[simp] theorem takeSnapshot_snap (s : State) :
    (takeSnapshot s).snap =
      { valid := true, state := Quad.ofFn fun i => s.ch i, amp := Quad.ofFn fun i => s.reg (.chan i .amplitudeSetpoint) } :=
  rfl
@[simp] theorem takeSnapshot_rxq (s : State) : (takeSnapshot s).rxq = s.rxq := rfl
@[simp] theorem takeSnapshot_txq (s : State) : (takeSnapshot s).txq = s.txq := rfl
@[simp] theorem takeSnapshot_ovlEdge (s : State) : (takeSnapshot s).ovlEdge = s.ovlEdge := rfl
@[simp] theorem takeSnapshot_nowMs (s : State) : (takeSnapshot s).nowMs = s.nowMs := rfl
@[simp] theorem takeSnapshot_runOut (s : State) : (takeSnapshot s).runOut = s.runOut := rfl
@[simp] theorem takeSnapshot_ampOut (s : State) : (takeSnapshot s).ampOut = s.ampOut := rfl
@[simp] theorem takeSnapshot_env (s : State) :
    (takeSnapshot s).env = { s.env with diag := s.env.diag ++ [.snapshotTaken] } := rfl

/-! `reflectWith` -/

@[simp] theorem reflectWith_params (smp : Chan → Sample) (s : State) : (reflectWith smp s).params = s.params := rfl
@[simp] theorem reflectWith_regs (smp : Chan → Sample) (s : State) :
    (reflectWith smp s).regs =
      { s.regs with system := reflectSystem s, channels := Quad.ofFn fun i => reflectChannel s (smp i) i } :=
  rfl
@[simp] theorem reflectWith_latches (smp : Chan → Sample) (s : State) : (reflectWith smp s).latches = s.latches := rfl
@[simp] theorem reflectWith_channels (smp : Chan → Sample) (s : State) :
    (reflectWith smp s).channels = s.channels := rfl
@[simp] theorem reflectWith_coord (smp : Chan → Sample) (s : State) : (reflectWith smp s).coord = s.coord := rfl
@[simp] theorem reflectWith_stats (smp : Chan → Sample) (s : State) : (reflectWith smp s).stats = s.stats := rfl
@[simp] theorem reflectWith_link (smp : Chan → Sample) (s : State) : (reflectWith smp s).link = s.link := rfl
@[simp] theorem reflectWith_wdt (smp : Chan → Sample) (s : State) : (reflectWith smp s).wdt = s.wdt := rfl
@[simp] theorem reflectWith_snap (smp : Chan → Sample) (s : State) : (reflectWith smp s).snap = s.snap := rfl
@[simp] theorem reflectWith_rxq (smp : Chan → Sample) (s : State) : (reflectWith smp s).rxq = s.rxq := rfl
@[simp] theorem reflectWith_txq (smp : Chan → Sample) (s : State) : (reflectWith smp s).txq = s.txq := rfl
@[simp] theorem reflectWith_ovlEdge (smp : Chan → Sample) (s : State) : (reflectWith smp s).ovlEdge = s.ovlEdge := rfl
@[simp] theorem reflectWith_nowMs (smp : Chan → Sample) (s : State) : (reflectWith smp s).nowMs = s.nowMs := rfl
@[simp] theorem reflectWith_runOut (smp : Chan → Sample) (s : State) : (reflectWith smp s).runOut = s.runOut := rfl
@[simp] theorem reflectWith_ampOut (smp : Chan → Sample) (s : State) : (reflectWith smp s).ampOut = s.ampOut := rfl
@[simp] theorem reflectWith_env (smp : Chan → Sample) (s : State) : (reflectWith smp s).env = s.env := rfl

end Sys2Proof.Machine
end

