-- ==== Sys2Proof/Laws/Ops.lean ====
section
/-! SUPPORT. What each shared operation can do, said once. `CtrlFrame` says that an operation of the channel state
machines or the coordinator leaves everything outside them alone; the `_channels` lemmas give the channels afterwards,
the `_coord` lemmas the coordinator status. -/

namespace Sys2Proof.Machine

/-! ### The register store and the latches -/

theorem SystemRegs.get_set (t : SystemRegs) (r q : SysReg) (v : Word) :
    (t.set r v).get q = if q = r then v else t.get q := by
  cases r <;> cases q <;> rfl

theorem GlobalRegs.get_set (t : GlobalRegs) (r q : GlobReg) (v : Word) :
    (t.set r v).get q = if q = r then v else t.get q := by
  cases r <;> cases q <;> rfl

theorem ChannelRegs.get_set (t : ChannelRegs) (r q : ChanReg) (v : Word) :
    (t.set r v).get q = if q = r then v else t.get q := by
  cases r <;> cases q <;> rfl

/-- Reading the store after a write. -/
theorem RegStore.get_set (t : RegStore) (r q : Reg) (v : Word) : (t.set r v).get q = if q = r then v else t.get q := by
  rcases r with r | r | ⟨i, r⟩ <;> rcases q with q | q | ⟨j, q⟩ <;> simp [RegStore.get, RegStore.set]
  · exact SystemRegs.get_set ..
  · exact GlobalRegs.get_set ..
  · by_cases h : j = i
    · subst h
      simp [ChannelRegs.get_set]
    · simp [Quad.get_set, h]

/-- Reading a latch after one is written: a register without a latch has none to write. -/
theorem Latches.get_set (l : Latches) (r q : Reg) (o : Option Word) :
    (l.set r o).get q = if q = r ∧ r.hasLatch = true then o else l.get q := by
  rcases r with _ | r | ⟨i, r⟩ <;> try cases r
  all_goals rcases q with _ | q | ⟨j, q⟩ <;> try cases q
  all_goals simp [Latches.get, Latches.set, Reg.hasLatch, Quad.get_set]
  all_goals split <;> simp_all

/-- A register without a latch never has one pending (10_state R24). -/
theorem Latches.get_of_no_latch (l : Latches) {r : Reg} (h : r.hasLatch = false) : l.get r = none := by
  rcases r with _ | r | ⟨i, r⟩ <;> try cases r
  all_goals first | rfl | simp [Reg.hasLatch] at h

/-! ### The codes of the states (10_state R31): a code names one state, so an event that holds the state tells its number
and the number its state (log 24). -/

theorem ChannelState.code_injective {a b : ChannelState} (h : a.code = b.code) : a = b := by
  cases a <;> cases b <;> first | rfl | exact absurd h (by decide)

theorem MasterState.code_injective {a b : MasterState} (h : a.code = b.code) : a = b := by
  cases a <;> cases b <;> first | rfl | exact absurd h (by decide)

/-! ### Frames -/

/-- Only the channels, the coordinator status and what stands outside the block may differ. -/
def CtrlFrame (s t : State) : Prop := t = { s with channels := t.channels, coord := t.coord, env := t.env }

/-- As `CtrlFrame`, and the snapshot may differ too. -/
def SnapFrame (s t : State) : Prop :=
  t = { s with channels := t.channels, coord := t.coord, snap := t.snap, env := t.env }

theorem CtrlFrame.refl (s : State) : CtrlFrame s s := rfl

theorem CtrlFrame.trans {s t u : State} (h : CtrlFrame s t) (k : CtrlFrame t u) : CtrlFrame s u := by
  unfold CtrlFrame at *
  rw [k, h]

theorem CtrlFrame.toSnap {s t : State} (h : CtrlFrame s t) : SnapFrame s t := by
  unfold CtrlFrame SnapFrame at *
  rw [h]

theorem SnapFrame.trans {s t u : State} (h : SnapFrame s t) (k : SnapFrame t u) : SnapFrame s u := by
  unfold SnapFrame at *
  rw [k, h]

theorem CtrlFrame.of_ite {s a b : State} {c : Prop} [Decidable c] (ha : CtrlFrame s a) (hb : CtrlFrame s b) :
    CtrlFrame s (if c then a else b) := by
  split <;> assumption

theorem forChannels_ctrl {f : Chan → State → State} (h : ∀ i s, CtrlFrame s (f i s)) (s : State) :
    CtrlFrame s (forChannels f s) :=
  (((h 0 s).trans (h 1 _)).trans (h 2 _)).trans (h 3 _)

theorem setState_ctrl (i : Chan) (n : ChannelState) (s : State) : CtrlFrame s (setState i n s) := by
  unfold setState
  split <;> rfl

theorem clearStart_ctrl (i : Chan) (s : State) : CtrlFrame s (clearStart i s) := rfl

theorem recomputeActive_ctrl (s : State) : CtrlFrame s (recomputeActive s) := rfl

theorem setMaster_ctrl (m : MasterState) (s : State) : CtrlFrame s (setMaster m s) := by
  unfold setMaster
  split <;> rfl

theorem chForceStop_ctrl (i : Chan) (s : State) : CtrlFrame s (chForceStop i s) := by
  unfold chForceStop
  split
  · exact (setState_ctrl i _ s).trans ((clearStart_ctrl i _).trans (recomputeActive_ctrl _))
  · rfl

theorem chFault_ctrl (i : Chan) (ov : Bool) (s : State) : CtrlFrame s (chFault i ov s) :=
  (setState_ctrl i _ s).trans ((clearStart_ctrl i _).trans (recomputeActive_ctrl _))

theorem chReset_ctrl (i : Chan) (s : State) : CtrlFrame s (chReset i s).1 := by
  unfold chReset
  split
  · exact (setState_ctrl i _ s).trans ((clearStart_ctrl i _).trans (recomputeActive_ctrl _))
  · rfl

theorem chStart_ctrl (i : Chan) (s : State) : CtrlFrame s (chStart i s).1 := by
  unfold chStart
  split <;> first | rfl | exact (setState_ctrl i _ s).trans ((clearStart_ctrl i _).trans (recomputeActive_ctrl _))

theorem chStop_ctrl (i : Chan) (s : State) : CtrlFrame s (chStop i s).1 := by
  unfold chStop
  split <;> first | rfl | exact (setState_ctrl i _ s).trans ((clearStart_ctrl i _).trans (recomputeActive_ctrl _))

theorem chConfirm_ctrl (i : Chan) (s : State) : CtrlFrame s (chConfirm i s).1 := by
  unfold chConfirm
  split <;> rfl

theorem chSetInhibit_ctrl (i : Chan) (b : Bool) (s : State) : CtrlFrame s (chSetInhibit i b s).1 := rfl

theorem setStartWait_ctrl (i : Chan) (v : Word) (s : State) : CtrlFrame s (setStartWait i v s) := rfl

theorem chWait_ctrl (i : Chan) (s : State) : CtrlFrame s (chWait i s) := by
  unfold chWait
  dsimp only
  split
  · exact (setStartWait_ctrl i _ s).trans ((setState_ctrl i _ _).trans rfl)
  · rfl

theorem chUpdate_ctrl (i : Chan) (s : State) : CtrlFrame s (chUpdate i s) := by
  unfold chUpdate
  split
  · split
    · exact (setState_ctrl i _ s).trans ((clearStart_ctrl i _).trans (recomputeActive_ctrl _))
    · exact (chWait_ctrl i s).trans (recomputeActive_ctrl _)
  · exact (setState_ctrl i _ s).trans (recomputeActive_ctrl _)
  all_goals rfl

theorem faultEntry_ctrl (i : Chan) (ov : Bool) (s : State) : CtrlFrame s (faultEntry i ov s) :=
  (chFault_ctrl i ov s).trans rfl

theorem faultReturn_ctrl (i : Chan) (s : State) : CtrlFrame s (faultReturn i s).1 :=
  (chReset_ctrl i s).trans (recomputeActive_ctrl _)

theorem clearEmergencyStop_ctrl (s : State) : CtrlFrame s (clearEmergencyStop s).1 := by
  unfold clearEmergencyStop
  split
  · rfl
  · exact CtrlFrame.trans (t := setEsActive false s) rfl ((setMaster_ctrl _ _).trans rfl)

theorem snapshotOnEntry_snap (s : State) : SnapFrame s (snapshotOnEntry s) := by
  unfold snapshotOnEntry
  split <;> rfl

theorem setEsActive_ctrl (b : Bool) (s : State) : CtrlFrame s (setEsActive b s) := rfl

theorem emit_ctrl (s : State) (ev : Event) : CtrlFrame s (s.emit ev) := rfl

theorem emergencyStop_snap (s : State) : SnapFrame s (emergencyStop s) := by
  unfold emergencyStop
  refine (snapshotOnEntry_snap s).trans (CtrlFrame.toSnap ?_)
  refine (setEsActive_ctrl true _).trans ((forChannels_ctrl chForceStop_ctrl _).trans ?_)
  exact (setMaster_ctrl _ _).trans ((recomputeActive_ctrl _).trans (emit_ctrl _ _))

theorem requestCoordinatedStart_ctrl (m : BitVec 4) (s : State) : CtrlFrame s (requestCoordinatedStart m s).1 := by
  unfold requestCoordinatedStart
  split
  · rfl
  · refine (forChannels_ctrl (fun i u => ?_) s).trans ((setMaster_ctrl _ _).trans (recomputeActive_ctrl _))
    exact CtrlFrame.of_ite (chStart_ctrl i u) (CtrlFrame.refl u)

theorem requestCoordinatedStop_ctrl (m : BitVec 4) (s : State) : CtrlFrame s (requestCoordinatedStop m s).1 := by
  refine (forChannels_ctrl (fun i u => ?_) s).trans (recomputeActive_ctrl _)
  exact CtrlFrame.of_ite (chStop_ctrl i u) (CtrlFrame.refl u)

theorem requestUnitStart_ctrl (i : Chan) (s : State) : CtrlFrame s (requestUnitStart i s).1 := by
  unfold requestUnitStart
  split
  · rfl
  · exact (chStart_ctrl i s).trans (recomputeActive_ctrl _)

theorem requestUnitStop_ctrl (i : Chan) (s : State) : CtrlFrame s (requestUnitStop i s).1 :=
  (chStop_ctrl i s).trans (recomputeActive_ctrl _)

theorem updateAll_ctrl (s : State) : CtrlFrame s (updateAll s) :=
  (forChannels_ctrl chUpdate_ctrl s).trans ((recomputeActive_ctrl _).trans (setMaster_ctrl _ _))

/-! ### The channels afterwards -/

/-- A channel with a new state. -/
def Channel.withState (c : Channel) (n : ChannelState) : Channel := { c with state := n }

/-- A channel with a new state and no wait or confirmation: the next channel of most transitions. -/
def Channel.enter (c : Channel) (n : ChannelState) : Channel :=
  { c with state := n, startWait := 0, confirmed := false }

@[simp] theorem setState_channels (i : Chan) (n : ChannelState) (s : State) :
    (setState i n s).channels = s.channels.set i ((s.channels.get i).withState n) := by
  unfold setState
  split
  · rename_i h
    rw [Channel.withState, ← h, show ({ s.channels.get i with state := s.ch i } : Channel) = s.channels.get i from rfl,
      Quad.set_get_self]
  · rfl

@[simp] theorem setMaster_channels (m : MasterState) (s : State) : (setMaster m s).channels = s.channels := by
  unfold setMaster
  split <;> rfl

theorem enter_channels (i : Chan) (n : ChannelState) (s : State) :
    (recomputeActive (clearStart i (setState i n s))).channels = s.channels.set i ((s.channels.get i).enter n) := by
  simp [Channel.withState, Channel.enter]

/-- `chForceStop` on one channel (42_channel_fsm R238). -/
def Channel.forceStopped (c : Channel) : Channel := if c.state.isActive then c.enter .stopping else c

/-- `chStart` on one channel (42_channel_fsm R231). -/
def Channel.started (c : Channel) : Channel := if c.state = .stopped then c.enter .starting else c

/-- `chStop` on one channel (42_channel_fsm R232). -/
def Channel.stopRequested (c : Channel) : Channel := if c.state.isActive then c.enter .stopping else c

/-- `chUpdate` on one channel (42_channel_fsm R236), with `START_TIMEOUT_TICKS`. -/
def Channel.updated (n : Nat) (c : Channel) : Channel :=
  match c.state with
  | .starting =>
    if !c.inhibit || c.confirmed then c.enter .running
    else if n < (satIncU16 c.startWait).toNat then { c with state := .fault, startWait := 0 }
    else { c with startWait := satIncU16 c.startWait }
  | .stopping => c.withState .stopped
  | _ => c

theorem chForceStop_channels (i : Chan) (s : State) :
    (chForceStop i s).channels = s.channels.set i (s.channels.get i).forceStopped := by
  unfold chForceStop Channel.forceStopped State.ch
  split
  · exact enter_channels ..
  · simp

theorem chFault_channels (i : Chan) (ov : Bool) (s : State) :
    (chFault i ov s).channels = s.channels.set i ((s.channels.get i).enter (if ov then .overload else .fault)) :=
  enter_channels ..

theorem chReset_channels (i : Chan) (s : State) :
    (chReset i s).1.channels =
      s.channels.set i
        (if (s.channels.get i).state.isFaulted then (s.channels.get i).enter .stopped else s.channels.get i) := by
  unfold chReset State.ch
  split
  · exact enter_channels ..
  · simp

theorem chStart_channels (i : Chan) (s : State) :
    (chStart i s).1.channels = s.channels.set i (s.channels.get i).started := by
  unfold chStart Channel.started State.ch
  split <;> simp_all [Channel.enter, Channel.withState]

theorem chStop_channels (i : Chan) (s : State) :
    (chStop i s).1.channels = s.channels.set i (s.channels.get i).stopRequested := by
  unfold chStop Channel.stopRequested State.ch
  split <;> simp_all [Channel.enter, Channel.withState, ChannelState.isActive]

theorem chWait_channels (i : Chan) (s : State) :
    (chWait i s).channels =
      s.channels.set i
        (if s.params.startTimeoutTicks < (satIncU16 (s.channels.get i).startWait).toNat then
          { s.channels.get i with state := .fault, startWait := 0 }
        else { s.channels.get i with startWait := satIncU16 (s.channels.get i).startWait }) := by
  unfold chWait
  simp only [setStartWait, State.setChannel, Quad.get_set_self]
  split <;> simp [Channel.withState]

theorem chUpdate_channels (i : Chan) (s : State) :
    (chUpdate i s).channels =
      s.channels.set i ((s.channels.get i).updated s.params.startTimeoutTicks) := by
  unfold chUpdate Channel.updated State.ch
  split
  · rename_i h
    simp only [h]
    split
    · exact enter_channels ..
    · rw [recomputeActive_channels, chWait_channels]
      dsimp only
      rw [h]
  · rename_i h
    simp [h]
  all_goals rename_i h; simp [h]

/-- A pass over the four channels, each with its own update. -/
theorem forChannels_channels {f : Chan → State → State} {g : Nat → Chan → Channel → Channel}
    (h : ∀ i s, (f i s).channels = s.channels.set i (g s.params.startTimeoutTicks i (s.channels.get i)))
    (hp : ∀ i s, CtrlFrame s (f i s)) (s : State) :
    (forChannels f s).channels = Quad.ofFn fun i => g s.params.startTimeoutTicks i (s.channels.get i) := by
  have p : ∀ i s, (f i s).params = s.params := fun i s => by rw [hp i s]
  simp only [forChannels, h, p]
  rfl

theorem ch_eq (s : State) (i : Chan) : s.ch i = (s.channels.get i).state := rfl

theorem updateAll_channels (s : State) :
    (updateAll s).channels =
      Quad.ofFn fun i => (s.channels.get i).updated s.params.startTimeoutTicks := by
  unfold updateAll
  dsimp only
  rw [setMaster_channels, recomputeActive_channels]
  exact forChannels_channels (g := fun n _ c => c.updated n) chUpdate_channels chUpdate_ctrl s

theorem snapshotOnEntry_channels (s : State) : (snapshotOnEntry s).channels = s.channels := by
  unfold snapshotOnEntry
  split <;> rfl

theorem emergencyStop_channels (s : State) :
    (emergencyStop s).channels = Quad.ofFn fun i => (s.channels.get i).forceStopped := by
  unfold emergencyStop
  rw [State.emit_channels, recomputeActive_channels, setMaster_channels,
    forChannels_channels (g := fun _ _ c => c.forceStopped) chForceStop_channels chForceStop_ctrl,
    setEsActive_channels, snapshotOnEntry_channels]

theorem requestCoordinatedStart_channels (m : BitVec 4) (s : State) (h : ¬(m = 0 ∨ s.coord.esActive = true)) :
    (requestCoordinatedStart m s).1.channels =
      Quad.ofFn fun i => if maskBit m i then (s.channels.get i).started else s.channels.get i := by
  unfold requestCoordinatedStart
  rw [if_neg h]
  simp only [recomputeActive_channels, setMaster_channels]
  refine forChannels_channels (g := fun _ i c => if maskBit m i then c.started else c) (fun i u => ?_) (fun i u => ?_) s
  · split
    · exact chStart_channels i u
    · simp
  · exact CtrlFrame.of_ite (chStart_ctrl i u) (CtrlFrame.refl u)

theorem requestCoordinatedStop_channels (m : BitVec 4) (s : State) :
    (requestCoordinatedStop m s).1.channels =
      Quad.ofFn fun i =>
        if maskBit (m &&& s.coord.activeMask) i then (s.channels.get i).stopRequested else s.channels.get i := by
  unfold requestCoordinatedStop
  simp only [recomputeActive_channels]
  refine forChannels_channels (g := fun _ i c => if maskBit (m &&& s.coord.activeMask) i then c.stopRequested else c)
    (fun i u => ?_) (fun i u => ?_) s
  · split
    · exact chStop_channels i u
    · simp
  · exact CtrlFrame.of_ite (chStop_ctrl i u) (CtrlFrame.refl u)

/-! ### The active mask -/

theorem maskBit_activeMaskOf (s : State) (i : Chan) : maskBit (activeMaskOf s) i = (s.ch i).isActive := by
  simp [activeMaskOf]

theorem activeMaskOf_congr {s t : State} (h : s.channels = t.channels) : activeMaskOf s = activeMaskOf t := by
  simp only [activeMaskOf, State.ch, h]

end Sys2Proof.Machine
end

