-- ==== Sys2Proof/Laws/Registers.lean ====
section
/-! SUPPORT. The register address map and the dispatcher: a range inside one block has a slot at every address
(41_register_access R182), so the fault of 60_exceptions R375 cannot happen; what one accepted write does; what a
reply does to the state. -/

namespace Sys2Proof.Machine

/-! ### The address map -/

theorem blockOf_contains {a : Nat} {b : Block} (h : blockOf a = some b) : b.contains a = true := by
  simpa using List.find?_some h

theorem mem_blocks (b : Block) : b ∈ blocks := by
  rcases b with _ | _ | i
  · decide
  · decide
  · match i with
    | 0 | 1 | 2 | 3 => decide

theorem blockOf_isSome_of_contains {a : Nat} {b : Block} (h : b.contains a = true) : (blockOf a).isSome = true := by
  rw [blockOf, List.find?_isSome]
  exact ⟨b, mem_blocks b, h⟩

theorem contains_iff {a : Nat} {b : Block} : b.contains a = true ↔ b.base ≤ a ∧ a < b.base + b.table.length := by
  simp [Block.contains]

/-- Every address of a block has a slot. -/
theorem regAt_isSome {a : Nat} (h : (blockOf a).isSome = true) : (regAt a).isSome = true := by
  obtain ⟨b, hb⟩ := Option.isSome_iff_exists.mp h
  have hc := contains_iff.mp (blockOf_contains hb)
  have hk : a - b.base < b.table.length := by omega
  simp [regAt, hb, List.getElem?_eq_getElem hk]

/-- An undefined address has no slot (20_memory R76). -/
theorem regAt_none {a : Nat} (h : blockOf a = none) : regAt a = none := by
  simp [regAt, h]

/-- `inOneBlock(a, q)` as a fact about a block. -/
theorem inOneBlock_iff {a : Word} {q : Nat} :
    inOneBlock a q = true ↔
      1 ≤ q ∧ a.toNat + q - 1 ≤ 0xFFFF ∧ ∃ b, blockOf a.toNat = some b ∧ blockOf (a.toNat + q - 1) = some b := by
  simp only [inOneBlock, Bool.and_eq_true, decide_eq_true_eq, beq_iff_eq, Option.isSome_iff_exists]
  constructor
  · rintro ⟨⟨⟨h1, h2⟩, b, hb⟩, he⟩
    exact ⟨h1, h2, b, hb, he ▸ hb⟩
  · rintro ⟨h1, h2, b, hb, he⟩
    exact ⟨⟨⟨h1, h2⟩, b, hb⟩, by rw [hb, he]⟩

/-- R182: `inOneBlock(a, q)` implies that every address of the range is defined. -/
theorem regAt_isSome_of_inOneBlock {a : Word} {q k : Nat} (h : inOneBlock a q = true) (hk : k < q) :
    (regAt (a.toNat + k)).isSome = true := by
  obtain ⟨h1, _, b, hb, he⟩ := inOneBlock_iff.mp h
  have lo := contains_iff.mp (blockOf_contains hb)
  have hi := contains_iff.mp (blockOf_contains he)
  exact regAt_isSome (blockOf_isSome_of_contains (b := b) (contains_iff.mpr ⟨by omega, by omega⟩))

/-- The registers of a range, one by one. -/
theorem regsFrom_eq_some_iff {a q : Nat} {rs : List Reg} :
    regsFrom a q = some rs ↔ rs.length = q ∧ ∀ k < q, regAt (a + k) = rs[k]? := by
  induction q generalizing a rs with
  | zero =>
    cases rs <;> simp [regsFrom]
  | succ q ih =>
    simp only [regsFrom]
    constructor
    · intro h
      split at h
      · rename_i r rs' hr hrs
        cases h
        obtain ⟨hl, hk⟩ := ih.mp hrs
        refine ⟨by simp [hl], fun k hkq => ?_⟩
        cases k with
        | zero => simpa using hr
        | succ k => simpa [Nat.add_assoc, Nat.add_comm 1 k] using hk k (by omega)
      · cases h
    · rintro ⟨hl, hk⟩
      cases rs with
      | nil => simp at hl
      | cons r rs =>
        have h0 := hk 0 (by omega)
        have hs : regsFrom (a + 1) q = some rs :=
          ih.mpr ⟨by simpa using hl, fun k hkq => by
            simpa [Nat.add_assoc, Nat.add_comm 1 k] using hk (k + 1) (by omega)⟩
        simp at h0
        simp [h0, hs]

/-- A range inside one block has all its registers. -/
theorem regsFrom_of_inOneBlock {a : Word} {q : Nat} (h : inOneBlock a q = true) :
    ∃ rs, regsFrom a.toNat q = some rs := by
  have hs : ∀ k < q, (regAt (a.toNat + k)).isSome = true := fun k hk => regAt_isSome_of_inOneBlock h hk
  clear h
  generalize a.toNat = n at hs
  induction q generalizing n with
  | zero => exact ⟨[], rfl⟩
  | succ q ih =>
    obtain ⟨r, hr⟩ := Option.isSome_iff_exists.mp (hs 0 (by omega))
    obtain ⟨rs, hrs⟩ := ih (n + 1) fun k hk => by
      simpa [Nat.add_assoc, Nat.add_comm 1 k] using hs (k + 1) (by omega)
    exact ⟨r :: rs, by simp [regsFrom, hrs, show regAt n = some r by simpa using hr]⟩

/-- Each register has one address. -/
def Reg.addr : Reg → Nat
  | .sys r => Config.layout.sysBase + r.ctorIdx
  | .glob r => Config.layout.globBase + r.ctorIdx
  | .chan i r => chBase i + r.ctorIdx

theorem regAt_addr (r : Reg) : regAt r.addr = some r := by
  rcases r with r | r | ⟨i, r⟩
  · cases r <;> rfl
  · cases r <;> rfl
  · match i with
    | 0 | 1 | 2 | 3 => cases r <;> rfl

/-- The address map, inverted: at most one address names a register. -/
theorem addr_of_regAt {a : Nat} {r : Reg} (h : regAt a = some r) : r.addr = a := by
  unfold regAt at h
  split at h
  · rename_i b hb
    have hc := contains_iff.mp (blockOf_contains hb)
    obtain ⟨k, rfl⟩ : ∃ k, a = b.base + k := ⟨a - b.base, by omega⟩
    replace hc : k < b.table.length := by omega
    rw [Nat.add_sub_cancel_left] at h
    clear hb
    have key : ∀ b : Block, ∀ k < b.table.length, ∀ r, b.table[k]? = some r → r.addr = b.base + k := by
      rintro (_ | _ | i) k hk r hr
      · simp only [Block.table, sysTable, List.map_cons, List.map_nil, List.length_cons, List.length_nil] at hk hr
        interval_cases k <;> cases hr <;> rfl
      · simp only [Block.table, globTable, List.map_cons, List.map_nil, List.length_cons, List.length_nil] at hk hr
        interval_cases k <;> cases hr <;> rfl
      · simp only [Block.table, chanTable, List.map_cons, List.map_nil, List.length_cons, List.length_nil] at hk hr
        interval_cases k <;> cases hr <;> rfl
    exact key b k hc r h
  · cases h

theorem regAt_injective {a b : Nat} {r : Reg} (ha : regAt a = some r) (hb : regAt b = some r) : a = b :=
  (addr_of_regAt ha).symm.trans (addr_of_regAt hb)

/-! ### Writes -/

/-- Only the register store and the latches may differ. -/
def StoreFrame (s t : State) : Prop := t = { s with regs := t.regs, latches := t.latches }

theorem StoreFrame.refl (s : State) : StoreFrame s s := rfl

theorem StoreFrame.trans {s t u : State} (h : StoreFrame s t) (k : StoreFrame t u) : StoreFrame s u := by
  unfold StoreFrame at *
  rw [k, h]

theorem storeWrite_store (r : Reg) (v : Word) (s : State) : StoreFrame s (storeWrite r v s) := by
  unfold storeWrite
  dsimp only
  split <;> rfl

theorem applyConv_store (r : Reg) (c : Conv) (s : State) : StoreFrame s (applyConv r c s) := by
  cases c with
  | store v => exact storeWrite_store r v s
  | illegal => rfl
  | ignored => rfl

theorem applyWrites_store (ws : List (Reg × Word)) (s : State) : StoreFrame s (applyWrites ws s) := by
  induction ws generalizing s with
  | nil => rfl
  | cons w ws ih => exact (applyConv_store w.1 _ s).trans (ih _)

/-- What `storeWrite` leaves in each register (41_register_access R189). -/
theorem storeWrite_reg (r q : Reg) (v : Word) (s : State) :
    (storeWrite r v s).reg q = if q = r then v else s.reg q := by
  unfold storeWrite State.reg
  dsimp only
  split <;> simp [RegStore.get_set]

/-- What `storeWrite` leaves in each latch (R193). -/
theorem storeWrite_latch (r q : Reg) (v : Word) (s : State) :
    (storeWrite r v s).latches.get q = if q = r ∧ r.hasLatch = true then some v else s.latches.get q := by
  unfold storeWrite
  dsimp only
  split
  · rw [State.setLatch_latches, Latches.get_set, State.setReg_latches]
  · simp_all

/-- The stored value of a conversion. -/
def Conv.value? : Conv → Option Word
  | .store v => some v
  | .illegal => none
  | .ignored => none

theorem applyConv_reg (r q : Reg) (c : Conv) (s : State) :
    (applyConv r c s).reg q = if q = r then c.value?.getD (s.reg q) else s.reg q := by
  cases c <;> simp [applyConv, Conv.value?, storeWrite_reg]

theorem applyConv_latch (r q : Reg) (c : Conv) (s : State) :
    (applyConv r c s).latches.get q =
      if q = r ∧ r.hasLatch = true then (c.value?.or (s.latches.get q)) else s.latches.get q := by
  cases c <;> simp [applyConv, Conv.value?, storeWrite_latch]

/-- A list of writes leaves a register alone that it does not name, or names only with values that store nothing. -/
theorem applyWrites_other {ws : List (Reg × Word)} {r : Reg}
    (h : ∀ w ∈ ws, w.1 = r → (conv w.1 w.2).value? = none) (s : State) :
    (applyWrites ws s).reg r = s.reg r ∧ (applyWrites ws s).latches.get r = s.latches.get r := by
  induction ws generalizing s with
  | nil => exact ⟨rfl, rfl⟩
  | cons w ws ih =>
    obtain ⟨h1, h2⟩ := ih (fun x hx => h x (List.mem_cons_of_mem _ hx)) (applyConv w.1 (conv w.1 w.2) s)
    have hw := h w List.mem_cons_self
    rw [applyWrites, h1, h2, applyConv_reg, applyConv_latch]
    by_cases e : w.1 = r
    · simp [hw e]
    · simp [Ne.symm e]

/-- A list of writes to different registers leaves in each the value its conversion stores (41_register_access R200). -/
theorem applyWrites_mem {ws : List (Reg × Word)} (hd : (ws.map Prod.fst).Nodup) {r : Reg} {v : Word}
    (hm : (r, v) ∈ ws) (s : State) :
    (applyWrites ws s).reg r = (conv r v).value?.getD (s.reg r) ∧
      (applyWrites ws s).latches.get r =
        if r.hasLatch = true then (conv r v).value?.or (s.latches.get r) else s.latches.get r := by
  induction ws generalizing s with
  | nil => cases hm
  | cons w ws ih =>
    rw [List.map_cons, List.nodup_cons] at hd
    rcases List.mem_cons.mp hm with rfl | hm'
    · have ho : ∀ x ∈ ws, x.1 = r → (conv x.1 x.2).value? = none := fun x hx e =>
        absurd (List.mem_map.mpr ⟨x, hx, e⟩) hd.1
      obtain ⟨h1, h2⟩ := applyWrites_other ho (applyConv r (conv r v) s)
      rw [applyWrites, h1, h2, applyConv_reg, applyConv_latch]
      simp
    · have e : r ≠ w.1 := fun e => hd.1 (List.mem_map.mpr ⟨(r, v), hm', e⟩)
      obtain ⟨h1, h2⟩ := ih hd.2 hm' (applyConv w.1 (conv w.1 w.2) s)
      rw [applyWrites, h1, h2, applyConv_reg, applyConv_latch]
      simp [e]

/-- A single address passes the address check exactly when it is defined. -/
theorem inOneBlock_one_iff (a : Word) : inOneBlock a 1 = true ↔ ∃ r, regAt a.toNat = some r := by
  constructor
  · intro h
    simpa using Option.isSome_iff_exists.mp (regAt_isSome_of_inOneBlock (k := 0) h (by omega))
  · rintro ⟨r, hr⟩
    rw [inOneBlock_iff]
    have := a.isLt
    cases hb : blockOf a.toNat with
    | none => rw [regAt_none hb] at hr; cases hr
    | some b => exact ⟨by omega, by omega, b, rfl, by simpa using hb⟩

theorem inOneBlock_one_eq_false_iff (a : Word) : inOneBlock a 1 = false ↔ regAt a.toNat = none := by
  rw [← Bool.not_eq_true, inOneBlock_one_iff]
  simp [Option.eq_none_iff_forall_ne_some]

/-! ### Replies (41_register_access R180, R181, 60_exceptions R375) -/

/-- A normal reply comes with the state after writes to registers that are not read-only, of values they accept; no
exception has code 4; no reply is inconsistent. -/
def Reply.Sound (s : State) : Reply → Prop
  | .ok _ t => ∃ ws : List (Reg × Word), (∀ w ∈ ws, w.1.cls ≠ .ro ∧ conv w.1 w.2 ≠ .illegal) ∧ t = applyWrites ws s
  | .exc code => code ≠ .slaveFailure
  | .inconsistent => False

theorem readRegs_sound (start qty : Word) (s : State) : (readRegs start qty s).Sound s := by
  unfold readRegs
  split
  · simp [Reply.Sound]
  · split
    · simp [Reply.Sound]
    · rename_i h
      obtain ⟨rs, hrs⟩ := regsFrom_of_inOneBlock (by simpa using h)
      simp only [hrs]
      exact ⟨[], by simp, rfl⟩

theorem writeReg_sound (a v : Word) (s : State) : (writeReg a v s).Sound s := by
  unfold writeReg
  split
  · simp [Reply.Sound]
  · rename_i h
    obtain ⟨r, hr⟩ := (inOneBlock_one_iff a).mp (by simpa using h)
    simp only [hr]
    split
    · simp [Reply.Sound]
    · rename_i hc
      split
      · simp [Reply.Sound]
      · rename_i hi
        exact ⟨[(r, v)], by simpa using ⟨hc, hi⟩, rfl⟩

theorem writeRegs_sound (start qty : Word) (bc : Byte) (data : List Byte) (s : State) :
    (writeRegs start qty bc data s).Sound s := by
  unfold writeRegs
  split
  · simp [Reply.Sound]
  · split
    · simp [Reply.Sound]
    · rename_i h
      obtain ⟨rs, hrs⟩ := regsFrom_of_inOneBlock (by simpa using h)
      simp only [hrs]
      split
      · simp [Reply.Sound]
      · rename_i hro
        split
        · simp [Reply.Sound]
        · rename_i hil
          simp only [List.any_eq_true, not_exists, not_and, beq_iff_eq] at hro hil
          exact ⟨_, fun w hw => ⟨hro _ (List.of_mem_zip hw).1, hil _ hw⟩, rfl⟩

end Sys2Proof.Machine
end

