-- ==== Sys2Proof/Laws/Codec.lean ====
section
/-! SUPPORT. The CRC of 40_frame_codec R145 as a one-to-one map, the response path in the words of Safety.lean, and
everything phase E can do. -/

namespace Sys2Proof

/-! ### Two bytes as a word -/

theorem append_toNat (y x : Byte) : BitVec.toNat (w := 16) (y ++ x) = y.toNat * 256 + x.toNat := by
  have := x.isLt
  refine (BitVec.toNat_append y x).trans ?_
  rw [← Nat.shiftLeft_add_eq_or_of_lt this, Nat.shiftLeft_eq]

theorem append_getLsbD (y x : Byte) (i : Nat) :
    BitVec.getLsbD (w := 16) (y ++ x) i = if i < 8 then x.getLsbD i else y.getLsbD (i - 8) := by
  refine BitVec.getLsbD_append.trans ?_
  split <;> rfl

theorem hiByte_toNat (v : Word) : (hiByte v).toNat = v.toNat / 256 := by
  have := v.isLt
  simp only [hiByte, BitVec.extractLsb'_toNat, Nat.shiftRight_eq_div_pow]
  omega

theorem loByte_toNat (v : Word) : (loByte v).toNat = v.toNat % 256 := by
  simp only [loByte, BitVec.extractLsb'_toNat, Nat.shiftRight_zero]

/-- The two bytes of a word, joined again. -/
theorem hi_append_lo (v : Word) : (hiByte v ++ loByte v : BitVec (8 + 8)) = v := by
  apply BitVec.eq_of_toNat_eq
  have := v.isLt
  rw [append_toNat, hiByte_toNat, loByte_toNat]
  omega

/-! ### The CRC (40_frame_codec R145) -/

theorem crcBit_getLsbD (c : Word) (i : Nat) :
    (crcBit c).getLsbD i = ((c.getLsbD (i + 1)) ^^ (c.getLsbD 0 && (0xA001 : Word).getLsbD i)) := by
  unfold crcBit
  cases h : c.getLsbD 0 <;> simp [BitVec.getLsbD_ushiftRight, Nat.add_comm 1 i]

/-- The top bit of the polynomial makes each shift reversible. -/
theorem crcBit_injective {c d : Word} (h : crcBit c = crcBit d) : c = d := by
  have key : ∀ i, i < 16 → (crcBit c).getLsbD i = (crcBit d).getLsbD i := fun i _ => by rw [h]
  have h15 := key 15 (by omega)
  rw [crcBit_getLsbD, crcBit_getLsbD] at h15
  have h0 : c.getLsbD 0 = d.getLsbD 0 := by
    simpa [show (0xA001 : Word).getLsbD 15 = true by decide, BitVec.getLsbD_of_ge] using h15
  apply BitVec.eq_of_getLsbD_eq
  intro i hi
  cases i with
  | zero => exact h0
  | succ i =>
    have hk := key i (by omega)
    rw [crcBit_getLsbD, crcBit_getLsbD, h0] at hk
    exact Bool.xor_left_inj.mp hk

theorem crcBits_injective (n : Nat) {c d : Word} (h : crcBits n c = crcBits n d) : c = d := by
  induction n generalizing c d with
  | zero => exact h
  | succ n ih => exact crcBit_injective (ih h)

theorem crcByte_injective_left {c d : Word} {b : Byte} (h : crcByte c b = crcByte d b) : c = d := by
  have := crcBits_injective 8 h
  exact (BitVec.xor_left_inj _).mp this

theorem crcByte_injective_right {c : Word} {a b : Byte} (h : crcByte c a = crcByte c b) : a = b := by
  have h1 := (BitVec.xor_right_inj _).mp (crcBits_injective 8 h)
  have h2 := congrArg BitVec.toNat h1
  apply BitVec.eq_of_toNat_eq
  have := a.isLt
  have := b.isLt
  simp only [BitVec.toNat_setWidth] at h2
  omega

/-- A word whose low byte is 0 is only shifted. -/
theorem crcBits_of_low_zero (n : Nat) (c : Word) (h : ∀ i < n, c.getLsbD i = false) : crcBits n c = c >>> n := by
  induction n generalizing c with
  | zero => simp [crcBits]
  | succ n ih =>
    have h0 : crcBit c = c >>> 1 := by rw [crcBit, h 0 (by omega)]; rfl
    rw [crcBits, h0, ih (c >>> 1) fun i hi => by simpa [Nat.add_comm] using h (i + 1) (by omega)]
    rw [← BitVec.shiftRight_add, Nat.add_comm]

/-- The CRC state after two bytes is 0 exactly when they are the low and the high byte of the state before. -/
theorem crcByte_crcByte_eq_zero (c : Word) (x y : Byte) : crcByte (crcByte c x) y = 0 ↔ c = (y ++ x : BitVec (8 + 8)) := by
  have zero : crcBits 8 0#16 = 0 := by decide
  have shifted : crcBits 8 (y ++ (0 : Byte) : BitVec (8 + 8)) = y.setWidth 16 := by
    rw [crcBits_of_low_zero]
    · apply BitVec.eq_of_toNat_eq
      have := y.isLt
      rw [BitVec.toNat_ushiftRight, append_toNat, Nat.shiftRight_eq_div_pow, BitVec.toNat_setWidth]
      simp only [BitVec.ofNat_eq_ofNat, BitVec.toNat_ofNat]
      omega
    · intro i hi
      rw [append_getLsbD, if_pos hi]
      simp
  have split : (y ++ x : BitVec (8 + 8)) = (y ++ (0 : Byte) : BitVec (8 + 8)) ^^^ x.setWidth 16 := by
    apply BitVec.eq_of_getLsbD_eq
    intro i hi
    rw [append_getLsbD, BitVec.getLsbD_xor, append_getLsbD, BitVec.getLsbD_setWidth]
    by_cases h8 : i < 8
    · simp [h8, show i < 16 by omega]
    · simp [h8, BitVec.getLsbD_of_ge x i (by omega)]
  rw [split]
  constructor
  · intro h
    have h1 : crcByte c x = y.setWidth 16 := by
      have := crcBits_injective 8 (h.trans zero.symm)
      exact BitVec.xor_eq_zero_iff.mp this
    have h2 := crcBits_injective 8 (h1.trans shifted.symm)
    rw [← h2, BitVec.xor_assoc, BitVec.xor_self, BitVec.xor_zero]
  · rintro rfl
    have h1 : crcByte ((y ++ (0 : Byte) : BitVec (8 + 8)) ^^^ x.setWidth 16) x = y.setWidth 16 := by
      unfold crcByte
      rw [BitVec.xor_assoc, BitVec.xor_self, BitVec.xor_zero, shifted]
    unfold crcByte at *
    rw [h1, BitVec.xor_self, zero]

theorem crc16_append (p r : List Byte) : crc16 (p ++ r) = r.foldl crcByte (crc16 p) := List.foldl_append

/-- A byte changed anywhere changes the CRC. -/
theorem crc16_set_ne {f : List Byte} {k : Nat} {b : Byte} (hk : k < f.length) (hb : b ≠ f[k]) :
    crc16 (f.set k b) ≠ crc16 f := by
  have fold : ∀ (r : List Byte) (c d : Word), r.foldl crcByte c = r.foldl crcByte d → c = d := by
    intro r
    induction r with
    | nil => exact fun c d h => h
    | cons a r ih => exact fun c d h => crcByte_injective_left (ih _ _ h)
  intro h
  have e : f = f.take k ++ f[k] :: f.drop (k + 1) := by simp
  rw [List.set_eq_take_append_cons_drop, if_pos hk, crc16_append] at h
  rw [show crc16 f = crc16 (f.take k ++ f[k] :: f.drop (k + 1)) from congrArg crc16 e, crc16_append] at h
  exact hb (crcByte_injective_right (fold _ _ _ h))

end Sys2Proof

namespace Sys2Proof.Machine

/-! ### Accepted values (41_register_access R187) -/

theorem conv_of_accepts {r : Reg} {v : Word} (h : accepts r v) :
    conv r v = if r.cls = .roDiag then .ignored else .store (storedValue r v) := by
  obtain ⟨h1, h2⟩ := h
  unfold conv storedValue
  cases hc : r.cls <;> simp_all
  unfold clamp Config.ampMin Config.ampMax
  apply BitVec.eq_of_toNat_eq
  have := v.isLt
  simp only [BitVec.toNat_ofNat]
  by_cases h20 : v.toNat < 20
  · simp [h20]; omega
  · by_cases h100 : 100 < v.toNat
    · simp [h20, h100]; omega
    · simp [h20, h100]; omega

/-- The only values a writable register refuses. -/
theorem conv_eq_illegal_iff {r : Reg} {v : Word} : conv r v = .illegal ↔ r.cls = .rwBool ∧ v ≠ 0 ∧ v ≠ 1 := by
  unfold conv
  cases r.cls <;> simp

/-! ### The response path (40_frame_codec R162, R165 to R168) -/

theorem maxU32_eq (a b : U32) : maxU32 a b = BitVec.ofNat 32 (max a.toNat b.toNat) := by
  have := a.isLt
  have := b.isLt
  apply BitVec.eq_of_toNat_eq
  unfold maxU32
  split <;> simp <;> omega

/-- A response to a counted request, after writes to the store and the latches only. -/
theorem send_responded {s t : State} (h : StoreFrame (countRequest s) t) (resp : List Byte) :
    send resp t = responded { s with regs := t.regs, latches := t.latches } resp := by
  unfold StoreFrame at h
  rw [h]
  simp only [send, refreshLink, responded, maxU32_eq, countRequest, elapsedMs]

/-- The exception response to a counted request (60_exceptions R390). -/
theorem takeException_rejected (fc : Byte) (code : ExcCode) (s : State) :
    takeException fc code (countRequest s) = rejected s fc code := by
  cases code <;>
    simp only [takeException, countException, countRequest, send, refreshLink, rejected, responded, maxU32_eq,
      exceptionResponse, elapsedMs, Stats.withException]

theorem respond_exc (fc : Byte) (code : ExcCode) (s : State) :
    respond fc (.exc code) (countRequest s) = .next (rejected s fc code) := by
  rw [respond, takeException_rejected]

theorem respond_ok {s t : State} (h : StoreFrame (countRequest s) t) (fc : Byte) (payload : List Byte) :
    respond fc (.ok payload t) (countRequest s) =
      .next
        (responded { s with regs := t.regs, latches := t.latches }
          (withCrc ([s.params.slaveAddr, fc] ++ payload))) := by
  rw [respond, send_responded h]
  rfl

end Sys2Proof.Machine
end

