-- ==== Sys2Proof/Laws/Transitions.lean ====
section
/-! SUPPORT. What every change of channel states leaves behind, in the words of Safety.lean: `Moved s q t` says that `t`
is `s` after its channels became `q`, each change counted and logged. Each primitive of 42_channel_fsm, each pass over
the four channels and each shared operation of the coordinator is described by it once. -/

namespace Sys2Proof.Machine

/-! ### Counting -/

theorem countedUp_zero (c : U32) : countedUp c 0 = c := by
  have := c.isLt
  apply BitVec.eq_of_toNat_eq
  simp only [countedUp, BitVec.toNat_ofNat]
  omega

theorem countedUp_add (c : U32) (m n : Nat) : countedUp (countedUp c m) n = countedUp c (m + n) := by
  have := c.isLt
  apply BitVec.eq_of_toNat_eq
  simp only [countedUp, BitVec.toNat_ofNat]
  omega

theorem satIncU32_eq (c : U32) : satIncU32 c = countedUp c 1 := by
  have := c.isLt
  apply BitVec.eq_of_toNat_eq
  unfold satIncU32 countedUp
  split <;> simp [BitVec.toNat_add] <;> omega

theorem le_countedUp (c : U32) (n : Nat) : c.toNat ≤ (countedUp c n).toNat := by
  have := c.isLt
  simp only [countedUp, BitVec.toNat_ofNat]
  omega

/-! ### The mask and the master state -/

theorem isActive_iff (st : ChannelState) : st.isActive = true ↔ st = .starting ∨ st = .running := by
  cases st <;> decide

theorem isFaulted_iff (st : ChannelState) : st.isFaulted = true ↔ st = .overload ∨ st = .fault := by
  cases st <;> decide

theorem activeMaskOf_eq (s : State) : activeMaskOf s = activeSet s.channels := by
  unfold activeMaskOf activeSet
  congr 2
  funext i
  rw [Bool.eq_iff_iff, decide_eq_true_eq]
  exact isActive_iff _

theorem maskBit_activeSet (q : Quad Channel) (i : Chan) : maskBit (activeSet q) i = true ↔ (q.get i).Active := by
  simp [activeSet]

/-- An exact mask is the recomputed one (10_state R34). -/
theorem MaskExact.eq {s : State} (h : MaskExact s) : s.coord.activeMask = activeSet s.channels := by
  apply mask_ext
  intro i
  rw [Bool.eq_iff_iff, maskBit_activeSet]
  exact h i

theorem recomputeActive_of_exact {s : State} (h : MaskExact s) : recomputeActive s = s := by
  unfold recomputeActive
  rw [activeMaskOf_eq, ← h.eq]

theorem someChannel_iff (p : ChannelState → Bool) (s : State) :
    someChannel p s = true ↔ ∃ i, p (s.channels.get i).state = true := by
  simp only [someChannel, State.ch, Bool.or_eq_true]
  constructor
  · rintro (((h | h) | h) | h)
    exacts [⟨0, h⟩, ⟨1, h⟩, ⟨2, h⟩, ⟨3, h⟩]
  · rintro ⟨i, h⟩
    match i with
    | 0 | 1 | 2 | 3 => simp [h]

theorem derive_eq (s : State) : derive s = masterFor s.coord.esActive s.channels := by
  unfold derive masterFor
  simp only [someChannel_iff, beq_iff_eq]

/-! ### Events -/

theorem channelEvents_eq (q r : Quad Channel) :
    channelEvents q r =
      (if q.c0.state = r.c0.state then [] else [.transition 0 q.c0.state r.c0.state]) ++
        (if q.c1.state = r.c1.state then [] else [.transition 1 q.c1.state r.c1.state]) ++
        (if q.c2.state = r.c2.state then [] else [.transition 2 q.c2.state r.c2.state]) ++
        (if q.c3.state = r.c3.state then [] else [.transition 3 q.c3.state r.c3.state]) := by
  simp only [channelEvents, chans, List.filterMap_cons, List.filterMap_nil, Quad.get]
  by_cases h0 : q.c0.state = r.c0.state <;> by_cases h1 : q.c1.state = r.c1.state <;>
    by_cases h2 : q.c2.state = r.c2.state <;> by_cases h3 : q.c3.state = r.c3.state <;> simp [h0, h1, h2, h3]

theorem channelEvents_self (q : Quad Channel) : channelEvents q q = [] := by
  simp [channelEvents_eq]

theorem channelEvents_set (q : Quad Channel) (i : Chan) (c : Channel) :
    channelEvents q (q.set i c) =
      if (q.get i).state = c.state then [] else [.transition i (q.get i).state c.state] := by
  match i with
  | 0 | 1 | 2 | 3 => simp [channelEvents_eq, Quad.set, Quad.get]; rfl

theorem masterEvents_self (m : MasterState) : masterEvents m m = [] := if_pos rfl

/-! ### `Moved` -/

/-- `t` is `s` after its channels became `q`: each change of a channel state is counted and logged (42_channel_fsm
R230). The active mask and `fault_code` are left open. -/
def Moved (s : State) (q : Quad Channel) (t : State) : Prop :=
  t =
    { s with
      channels := q
      coord :=
        { s.coord with
          activeMask := t.coord.activeMask
          faultCode := t.coord.faultCode
          transitionCount := countedUp s.coord.transitionCount (channelEvents s.channels q).length }
      env := { s.env with diag := s.env.diag ++ channelEvents s.channels q } }

theorem Moved.channels {s t : State} {q : Quad Channel} (h : Moved s q t) : t.channels = q := by rw [h]

theorem Moved.refl (s : State) : Moved s s.channels s := by
  simp [Moved, channelEvents_self, countedUp_zero]

/-- What keeps the channels, the count and the log keeps `Moved`. -/
theorem Moved.mask {s t : State} {q : Quad Channel} (h : Moved s q t) : Moved s q (recomputeActive t) := by
  unfold Moved at *
  rw [h]
  rfl

theorem Moved.faultCode {s t : State} {q : Quad Channel} (h : Moved s q t) (v : Word) :
    Moved s q (t.setFaultCode v) := by
  unfold Moved at *
  rw [h]
  rfl

theorem Moved.mono {s t : State} {q : Quad Channel} (h : Moved s q t) :
    s.coord.transitionCount.toNat ≤ t.coord.transitionCount.toNat := by
  rw [h]
  exact le_countedUp ..

/-- A wait or a confirmation changed: nothing to count. -/
theorem Moved.touch {s t : State} {q : Quad Channel} (h : Moved s q t) (i : Chan) (c : Channel)
    (hc : c.state = (q.get i).state) : Moved s (q.set i c) (t.setChannel i c) := by
  have e : channelEvents s.channels (q.set i c) = channelEvents s.channels q := by
    revert hc
    match i with
    | 0 | 1 | 2 | 3 => intro hc; simp only [Quad.get] at hc; simp [channelEvents_eq, Quad.set, hc]
  unfold Moved at *
  rw [e, h]
  rfl

/-- A change of channel `i` that keeps its state, and then another one, make one change. -/
theorem Moved.after {s t u : State} {i : Chan} {c d : Channel} (h : Moved s (s.channels.set i c) t)
    (hc : c.state = (s.channels.get i).state) (k : Moved t (t.channels.set i d) u) :
    Moved s (s.channels.set i d) u := by
  have e : channelEvents s.channels (s.channels.set i c) = [] := by simp [channelEvents_set, hc]
  have hq := h.channels
  unfold Moved at h k ⊢
  rw [e] at h
  rw [channelEvents_set, hq, Quad.get_set_self, Quad.set_set, hc, ← channelEvents_set] at k
  have hcount : t.coord.transitionCount = s.coord.transitionCount := by rw [h]; exact countedUp_zero _
  have hdiag : t.env.diag = s.env.diag := by rw [h]; simp
  rw [k, hcount, hdiag, h]

theorem setState_moved (i : Chan) (n : ChannelState) (s : State) :
    Moved s (s.channels.set i ((s.channels.get i).withState n)) (setState i n s) := by
  unfold Moved
  rw [channelEvents_set]
  unfold setState
  by_cases h : s.ch i = n
  · have e : (s.channels.get i).withState n = s.channels.get i := by rw [← h]; rfl
    simp [h, e, countedUp_zero]
  · rw [if_neg h, ch_eq] at *
    simp [Channel.withState, h, State.emit, State.countTransition, State.setChannel, satIncU32_eq]

/-- The common shape of a transition: the new state, no wait, no confirmation, the mask recomputed. -/
theorem enter_moved (i : Chan) (n : ChannelState) (s : State) :
    Moved s (s.channels.set i ((s.channels.get i).entered n)) (recomputeActive (clearStart i (setState i n s))) := by
  have h := (setState_moved i n s).touch i ((s.channels.get i).entered n) (by simp [Channel.entered, Channel.withState])
  rw [Quad.set_set] at h
  refine Moved.mask ?_
  convert h using 1
  simp [clearStart, Channel.withState, Channel.entered]

theorem unmoved {s : State} (i : Chan) : Moved s (s.channels.set i (s.channels.get i)) s := by
  rw [Quad.set_get_self]
  exact Moved.refl s

theorem Channel.enter_eq (c : Channel) (n : ChannelState) : c.enter n = c.entered n := rfl

theorem chForceStop_moved (i : Chan) (s : State) :
    Moved s (s.channels.set i (s.channels.get i).forceStopped) (chForceStop i s) := by
  unfold chForceStop Channel.forceStopped
  rw [ch_eq]
  split
  · exact enter_moved ..
  · exact unmoved i

theorem chFault_moved (i : Chan) (ov : Bool) (s : State) :
    Moved s (s.channels.set i ((s.channels.get i).entered (if ov then .overload else .fault))) (chFault i ov s) :=
  enter_moved ..

theorem chStart_moved (i : Chan) (s : State) :
    Moved s (s.channels.set i (s.channels.get i).started) (chStart i s).1 := by
  unfold chStart Channel.started
  rw [ch_eq]
  cases h : (s.channels.get i).state <;> simp only [reduceCtorEq, if_false, if_true]
  case stopped => exact enter_moved ..
  all_goals exact unmoved i

theorem chStop_moved (i : Chan) (s : State) :
    Moved s (s.channels.set i (s.channels.get i).stopRequested) (chStop i s).1 := by
  unfold chStop Channel.stopRequested
  rw [ch_eq]
  cases h : (s.channels.get i).state
  case starting => exact enter_moved ..
  case running => exact enter_moved ..
  all_goals exact unmoved i

/-- `chReset` on one channel (42_channel_fsm R234). -/
def Channel.cleared (c : Channel) : Channel := if c.state.isFaulted then c.entered .stopped else c

theorem chReset_moved (i : Chan) (s : State) :
    Moved s (s.channels.set i (s.channels.get i).cleared) (chReset i s).1 := by
  unfold chReset Channel.cleared
  rw [ch_eq]
  split
  · exact enter_moved ..
  · exact unmoved i

theorem chWait_moved (i : Chan) (s : State) :
    Moved s (chWait i s).channels (chWait i s) := by
  have h1 : Moved s _ (setStartWait i (satIncU16 (s.channels.get i).startWait) s) :=
    (Moved.refl s).touch i { s.channels.get i with startWait := satIncU16 (s.channels.get i).startWait } rfl
  unfold chWait
  dsimp only
  split
  · have h2 := h1.after rfl (setState_moved i .fault _)
    have h3 := (h2.touch i { (setState i .fault _).channels.get i with startWait := 0 } (by rw [h2.channels])).faultCode 3
    have h4 := h3.channels
    unfold setStartWait at *
    rw [h4]
    exact h3
  · rw [h1.channels]
    exact h1

theorem chUpdate_moved (i : Chan) (s : State) :
    Moved s (s.channels.set i ((s.channels.get i).updated s.params.startTimeoutTicks)) (chUpdate i s) := by
  rw [← chUpdate_channels]
  unfold chUpdate
  split
  · split
    · have h := enter_moved i .running s
      rw [h.channels]
      exact h
    · exact (chWait_moved i s).mask
  · have h := (setState_moved i .stopped s).mask
    rw [h.channels]
    exact h
  all_goals exact Moved.refl s

/-! ### Passes over the four channels -/

theorem Moved.trans {s t u : State} {q r : Quad Channel} (h : Moved s q t) (k : Moved t r u)
    (e : channelEvents s.channels r = channelEvents s.channels q ++ channelEvents q r) : Moved s r u := by
  have hq := h.channels
  unfold Moved at h k ⊢
  rw [hq] at k
  rw [k, e, List.length_append, ← countedUp_add, ← List.append_assoc, h]

/-- One step on each channel, in ascending order, is one move of all four. -/
theorem forChannels_moved {f : Chan → State → State} {g : Nat → Chan → Channel → Channel}
    (h : ∀ i s, Moved s (s.channels.set i (g s.params.startTimeoutTicks i (s.channels.get i))) (f i s)) (s : State) :
    Moved s (Quad.ofFn fun i => g s.params.startTimeoutTicks i (s.channels.get i)) (forChannels f s) := by
  have p : ∀ i s, (f i s).params = s.params := fun i s => by rw [h i s]
  have h0 := h 0 s
  have h1 := h 1 (f 0 s)
  have h2 := h 2 (f 1 (f 0 s))
  have h3 := h 3 (f 2 (f 1 (f 0 s)))
  simp only [p] at h1 h2 h3
  rw [h2.channels] at h3
  rw [h1.channels] at h2 h3
  rw [h0.channels] at h1 h2 h3
  exact ((h0.trans h1 (by simp [channelEvents_eq, Quad.set])).trans h2 (by simp [channelEvents_eq, Quad.set])).trans h3
    (by simp [channelEvents_eq, Quad.set, Quad.ofFn, Quad.get])

/-- The same, where only the channels of a mask take their step. -/
theorem forChannels_if_moved {f : Chan → State → State} {g : Nat → Chan → Channel → Channel} (m : BitVec 4)
    (h : ∀ i s, Moved s (s.channels.set i (g s.params.startTimeoutTicks i (s.channels.get i))) (f i s)) (s : State) :
    Moved s
      (Quad.ofFn fun i =>
        if maskBit m i = true then g s.params.startTimeoutTicks i (s.channels.get i) else s.channels.get i)
      (forChannels (fun i u => if maskBit m i = true then f i u else u) s) := by
  refine forChannels_moved (g := fun n i c => if maskBit m i = true then g n i c else c) (fun i u => ?_) s
  split
  · exact h i u
  · exact unmoved i

/-! ### Indices (43_coordinator R283) -/

theorem chanOf_eq_some {n : Nat} {idx : BitVec n} {i : Chan} (h : idx.toNat = i.val) : chanOf idx = some i := by
  unfold chanOf
  rw [dif_pos (by omega)]
  simp [h]

theorem chanOf_eq_none {n : Nat} {idx : BitVec n} (h : 3 < idx.toNat) : chanOf idx = none := by
  unfold chanOf
  rw [dif_neg (by omega)]

/-! ### The end of an operation -/

/-- Nothing changed, nothing counted. -/
theorem transitioned_self {s : State} (h : MaskExact s) : s.transitioned s.channels s.coord.masterState = s := by
  simp [State.transitioned, channelEvents_self, masterEvents_self, countedUp_zero, ← h.eq]

/-- `recomputeActive` after a move. -/
theorem Moved.recompute {s t : State} {q : Quad Channel} (h : Moved s q t) :
    recomputeActive t = (s.transitioned q s.coord.masterState).setFaultCode t.coord.faultCode := by
  unfold recomputeActive
  rw [activeMaskOf_eq, h.channels]
  unfold Moved at h
  rw [h]
  simp [State.transitioned, State.setFaultCode, masterEvents_self]

/-- `setMaster` after a move and a new active mask. -/
theorem Moved.settle {s t : State} {q : Quad Channel} (h : Moved s q t) (m : MasterState) :
    setMaster m (recomputeActive t) = (s.transitioned q m).setFaultCode t.coord.faultCode := by
  rw [h.recompute]
  unfold setMaster
  by_cases hm : s.coord.masterState = m
  · simp [State.transitioned, State.setFaultCode, hm]
  · simp only [State.transitioned, State.setFaultCode, State.countTransition, State.emit, satIncU32_eq, countedUp_add,
      masterEvents, hm, if_false, if_true, List.append_nil, List.length_append, List.length_singleton,
      List.append_assoc]

theorem setMaster_recompute (m : MasterState) (s : State) :
    recomputeActive (setMaster m s) = setMaster m (recomputeActive s) := by
  unfold setMaster recomputeActive
  dsimp only
  split <;> rfl

theorem setFaultCode_self (s : State) : s.setFaultCode s.coord.faultCode = s := rfl

/-! ### Fault codes: only `chUpdate` of the primitives writes one -/

theorem setState_code (i : Chan) (n : ChannelState) (s : State) :
    (setState i n s).coord.faultCode = s.coord.faultCode := by
  unfold setState
  split <;> rfl

theorem chForceStop_code (i : Chan) (s : State) : (chForceStop i s).coord.faultCode = s.coord.faultCode := by
  unfold chForceStop
  split
  · exact setState_code ..
  · rfl

theorem chStart_code (i : Chan) (s : State) : (chStart i s).1.coord.faultCode = s.coord.faultCode := by
  unfold chStart
  split <;> first | rfl | exact setState_code ..

theorem chStop_code (i : Chan) (s : State) : (chStop i s).1.coord.faultCode = s.coord.faultCode := by
  unfold chStop
  split <;> first | rfl | exact setState_code ..

/-- A start that waited too long leaves 3 (42_channel_fsm R236). -/
theorem chUpdate_code (i : Chan) (s : State) :
    (chUpdate i s).coord.faultCode =
      if (s.channels.get i).state = .starting ∧
          ((s.channels.get i).updated s.params.startTimeoutTicks).state = .fault then 3
      else s.coord.faultCode := by
  unfold chUpdate Channel.updated
  rw [ch_eq]
  cases h : (s.channels.get i).state
  case starting =>
    dsimp only
    split
    · simp [Channel.enter, setState_code]
    · simp only [chWait, setStartWait, State.setChannel, Quad.get_set_self, recomputeActive_coord]
      split <;> simp [h]
  case stopping => simp [setState_code]
  all_goals simp

theorem forChannels_code {f : Chan → State → State} (h : ∀ i s, (f i s).coord.faultCode = s.coord.faultCode)
    (s : State) : (forChannels f s).coord.faultCode = s.coord.faultCode := by
  simp only [forChannels, h]

/-! ### The shared operations -/

theorem forceStopped_eq (q : Quad Channel) : (Quad.ofFn fun i => (q.get i).forceStopped) = shutDown q := by
  unfold shutDown Channel.forceStopped
  congr 1
  funext i
  simp only [isActive_iff, Channel.enter_eq]

/-- No channel is active after a safety shutdown (43_coordinator R292). -/
theorem shutDown_inactive (q : Quad Channel) (i : Chan) : ¬((shutDown q).get i).Active := by
  simp only [shutDown, Quad.get_ofFn]
  split
  · simp [Channel.entered]
  · assumption

theorem activeSet_shutDown (q : Quad Channel) : activeSet (shutDown q) = 0 := by
  rw [activeSet, maskOfQuad_eq_zero]
  intro i
  simpa using shutDown_inactive q i

/-- Emergency-stop entry, whatever fault code its cause then writes (43_coordinator R292, 44_safety_supervisor R351). -/
theorem emergencyStop_shutdown (s : State) (code : Word) : (emergencyStop s).setFaultCode code = s.shutdown code := by
  have h := forChannels_moved (g := fun _ _ c => c.forceStopped) chForceStop_moved (setEsActive true (snapshotOnEntry s))
  have k := forChannels_code chForceStop_code (setEsActive true (snapshotOnEntry s))
  unfold emergencyStop
  rw [setMaster_recompute, h.settle, k, forceStopped_eq]
  unfold State.shutdown snapshotOnEntry
  cases s.coord.esActive
  · rfl
  · simp [State.logged, setEsActive, State.transitioned, State.setFaultCode, State.emit]

/-- Fault entry (43_coordinator R291). -/
theorem faultEntry_eq (i : Chan) (ov : Bool) (s : State) :
    faultEntry i ov s =
      ((s.transitioned (s.channels.set i ((s.channels.get i).entered (if ov then .overload else .fault)))
            s.coord.masterState).setFaultCode (if ov then 1 else 2)).logged [.faultReported i ov] := by
  have h := ((chFault_moved i ov s).faultCode (if ov then 1 else 2)).recompute
  unfold faultEntry
  rw [h]
  rfl

theorem Channel.cleared_eq (c : Channel) : c.cleared = if c.Faulted then c.entered .stopped else c := by
  unfold Channel.cleared
  simp only [isFaulted_iff]

/-- Return from a fault (43_coordinator R295). -/
theorem faultReturn_eq (i : Chan) (s : State) :
    faultReturn i s =
      (s.transitioned (s.channels.set i (s.channels.get i).cleared) s.coord.masterState,
        decide (s.channels.get i).Faulted) := by
  have h := (chReset_moved i s).recompute
  have c : (chReset i s).1.coord.faultCode = s.coord.faultCode := by
    unfold chReset
    split
    · exact setState_code ..
    · rfl
  have b : (chReset i s).2 = decide (s.channels.get i).Faulted := by
    unfold chReset
    rw [ch_eq]
    split <;> rename_i h <;> simp_all [isFaulted_iff]
  unfold faultReturn
  dsimp only
  rw [h, c, b]
  rfl

/-- Return from an emergency stop (43_coordinator R294). -/
theorem clearEmergencyStop_eq (s : State) :
    clearEmergencyStop s =
      if s.coord.esActive = false ∨ s.link.commFault = true then (s, false)
      else
        ((setMaster (masterFor false s.channels) (setEsActive false s)).logged [.emergencyStopCleared], true) := by
  unfold clearEmergencyStop
  simp only [derive_eq]
  cases s.coord.esActive <;> cases s.link.commFault <;> rfl

theorem satIncU16_eq (c : Word) : satIncU16 c = BitVec.ofNat 16 (min (c.toNat + 1) 0xFFFF) := by
  have := c.isLt
  apply BitVec.eq_of_toNat_eq
  unfold satIncU16
  split <;> simp [BitVec.toNat_add] <;> omega

/-- The update of one channel, in the words of Safety.lean (42_channel_fsm R236). -/
theorem updated_eq_afterUpdate (n : Nat) (c : Channel) : c.updated n = c.afterUpdate n := by
  unfold Channel.updated Channel.afterUpdate
  have e : (satIncU16 c.startWait).toNat = min (c.startWait.toNat + 1) 0xFFFF := by simp [satIncU16_eq]
  rw [satIncU16_eq] at *
  cases h : c.state <;> simp [e]
  · cases c.inhibit <;> cases c.confirmed <;> simp [Channel.enter_eq]
  · rfl

/-- `update()` (43_coordinator R300), but for the fault code. -/
theorem updateAll_eq (s : State) :
    updateAll s =
      (s.transitioned (Quad.ofFn fun i => (s.channels.get i).updated s.params.startTimeoutTicks)
          (masterFor s.coord.esActive (Quad.ofFn fun i => (s.channels.get i).updated s.params.startTimeoutTicks))).setFaultCode
        (forChannels chUpdate s).coord.faultCode := by
  have h := forChannels_moved (g := fun n _ c => c.updated n) chUpdate_moved s
  unfold updateAll
  dsimp only
  rw [h.settle, derive_eq]
  have e : (recomputeActive (forChannels chUpdate s)).coord.esActive = s.coord.esActive := by
    unfold Moved at h
    rw [recomputeActive, h]
  rw [e, recomputeActive_channels, h.channels]

end Sys2Proof.Machine
end

