-- ==== Sys2Proof/Laws/Events.lean ====
section
/-! SUPPORT. What the requests, the phases of a tick and the step can do, said once: which parts of the state each can
reach, and in what form. -/

namespace Sys2Proof.Machine

/-! ### Requests -/

/-- A request draws a normal response after writes to registers that are not read-only, or an exception response with a
code other than slave failure and nothing written (41_register_access R181, 60_exceptions R375). -/
def Answered (s t : State) : Prop :=
  (∃ (ws : List (Reg × Word)) (p : List Byte), (∀ w ∈ ws, w.1.cls ≠ .ro ∧ conv w.1 w.2 ≠ .illegal) ∧
      t =
        responded
          { s with
            regs := (applyWrites ws (countRequest s)).regs
            latches := (applyWrites ws (countRequest s)).latches }
          (withCrc (s.params.slaveAddr :: p))) ∨
    ∃ fc code, code ≠ .slaveFailure ∧ t = rejected s fc code

theorem respond_answered {s : State} {r : Reply} (fc : Byte) (h : r.Sound (countRequest s)) :
    ∃ t, respond fc r (countRequest s) = .next t ∧ Answered s t := by
  cases r with
  | ok p t =>
    obtain ⟨ws, hw, rfl⟩ := h
    exact ⟨_, respond_ok (applyWrites_store ..) fc p, .inl ⟨ws, fc :: p, hw, rfl⟩⟩
  | exc code => exact ⟨_, respond_exc fc code s, .inr ⟨fc, code, h, rfl⟩⟩
  | inconsistent => exact h.elim

theorem execReadHoldingRegisters_answered (start qty : Word) (s : State) :
    ∃ t, execReadHoldingRegisters start qty s = .next t ∧ Answered s t :=
  respond_answered 0x03 (readRegs_sound ..)

theorem execWriteSingleRegister_answered (a v : Word) (s : State) :
    ∃ t, execWriteSingleRegister a v s = .next t ∧ Answered s t :=
  respond_answered 0x06 (writeReg_sound ..)

theorem execWriteMultipleRegisters_answered (start qty : Word) (bc : Byte) (data : List Byte) (s : State) :
    ∃ t, execWriteMultipleRegisters start qty bc data s = .next t ∧ Answered s t :=
  respond_answered 0x10 (writeRegs_sound ..)

theorem execIllegalFunction_answered (fc : Byte) (s : State) :
    ∃ t, execIllegalFunction fc s = .next t ∧ Answered s t :=
  ⟨_, congrArg Host.Outcome.next (takeException_rejected ..), .inr ⟨fc, .illegalFunction, by simp, rfl⟩⟩

theorem runRequest_answered (req : Request) (s : State) : ∃ t, runRequest req s = .next t ∧ Answered s t := by
  cases req with
  | read start qty => exact execReadHoldingRegisters_answered ..
  | write1 a v => exact execWriteSingleRegister_answered ..
  | writeN start qty bc data => exact execWriteMultipleRegisters_answered ..
  | illegal fc => exact execIllegalFunction_answered ..

theorem exec_toInstr (req : Request) (s : State) : exec req.toInstr s = runRequest req s := by
  cases req <;> rfl

/-- Phase E: nothing to do, a dropped frame, or an answered request (40_frame_codec R161). -/
theorem processFrame_cases (s : State) :
    ∃ t, processFrame s = .next t ∧
      ((s.rxq = [] ∧ t = s) ∨
        ∃ e rest, s.rxq = e :: rest ∧
          ((∃ d, t = dropFrame d (takeFrame e rest s)) ∨ Answered (takeFrame e rest s) t)) := by
  unfold processFrame
  split
  · exact ⟨s, rfl, .inl ⟨by assumption, rfl⟩⟩
  · rename_i e rest h
    split
    · rename_i req _
      obtain ⟨t, ht, ha⟩ := runRequest_answered req (takeFrame e rest s)
      exact ⟨t, ht, .inr ⟨e, rest, h, .inr ha⟩⟩
    · exact ⟨_, rfl, .inr ⟨e, rest, h, .inl ⟨_, rfl⟩⟩⟩

/-! ### The phases of a tick -/

/-- Every tick completes, and phase E separates the phases A to D from the phases F to H. -/
theorem execTick_eq (s : State) :
    ∃ e, processFrame (tickBeforeFrame s) = .next e ∧ execTick s = .next (tickAfterFrame e) := by
  obtain ⟨e, he, _⟩ := processFrame_cases (tickBeforeFrame s)
  refine ⟨e, he, ?_⟩
  unfold execTick
  rw [he]

/-- What phases A to D can reach: not the parameters, the link, the queues, the time, the outputs, the kick or the
model's own fields but the sample counter. -/
def BeforeFrame (s t : State) : Prop :=
  t =
    { s with
      regs := t.regs, latches := t.latches, channels := t.channels, coord := t.coord, stats := t.stats, snap := t.snap
      wdt := { s.wdt with flag := t.wdt.flag }
      ovlEdge := t.ovlEdge
      env := { s.env with diag := t.env.diag, sampleNo := t.env.sampleNo } }

theorem BeforeFrame.refl (s : State) : BeforeFrame s s := rfl

theorem BeforeFrame.trans {s t u : State} (h : BeforeFrame s t) (k : BeforeFrame t u) : BeforeFrame s u := by
  unfold BeforeFrame at *
  rw [k, h]

/-- A change of channels, coordinator, snapshot and log only. -/
def LogFrame (s t : State) : Prop :=
  t = { s with channels := t.channels, coord := t.coord, snap := t.snap, env := { s.env with diag := t.env.diag } }

theorem LogFrame.trans {s t u : State} (h : LogFrame s t) (k : LogFrame t u) : LogFrame s u := by
  unfold LogFrame at *
  rw [k, h]

theorem LogFrame.before {s t : State} (h : LogFrame s t) : BeforeFrame s t := by
  unfold LogFrame BeforeFrame at *
  rw [h]

theorem Moved.log {s t : State} {q : Quad Channel} (h : Moved s q t) : LogFrame s t := by
  unfold Moved LogFrame at *
  rw [h]

theorem shutdown_log (s : State) (code : Word) : LogFrame s (s.shutdown code) := rfl

theorem faultEntry_log (i : Chan) (ov : Bool) (s : State) : LogFrame s (faultEntry i ov s) := by
  rw [faultEntry_eq]
  rfl

theorem faultReturn_log (i : Chan) (s : State) : LogFrame s (faultReturn i s).1 := by
  rw [faultReturn_eq]
  rfl

theorem clearEmergencyStop_log (s : State) : LogFrame s (clearEmergencyStop s).1 := by
  rw [clearEmergencyStop_eq]
  split
  · rfl
  · unfold setMaster
    dsimp only
    split <;> rfl

theorem requestUnitStart_log (i : Chan) (s : State) : LogFrame s (requestUnitStart i s).1 := by
  unfold requestUnitStart
  split
  · rfl
  · exact (chStart_moved i s).mask.log

theorem requestUnitStop_log (i : Chan) (s : State) : LogFrame s (requestUnitStop i s).1 :=
  (chStop_moved i s).mask.log

theorem updateAll_log (s : State) : LogFrame s (updateAll s) := by
  rw [updateAll_eq]
  rfl

theorem consumeEmergencyStop_before (s : State) : BeforeFrame s (consumeEmergencyStop s) := by
  unfold consumeEmergencyStop
  split
  · rfl
  · dsimp only
    split
    · rw [emergencyStop_shutdown]
      rfl
    · exact (clearEmergencyStop_log s).before.trans rfl

theorem consumeSystemReset_before (s : State) : BeforeFrame s (consumeSystemReset s) := by
  unfold consumeSystemReset
  split
  · rfl
  · dsimp only
    split <;> rfl

theorem consumeOverloadReset_before (i : Chan) (s : State) : BeforeFrame s (consumeOverloadReset i s) := by
  unfold consumeOverloadReset
  split
  · rfl
  · dsimp only
    split
    · exact (faultReturn_log i s).before.trans rfl
    · rfl

theorem consumeStartStop_before (i : Chan) (s : State) : BeforeFrame s (consumeStartStop i s) := by
  unfold consumeStartStop
  split
  · rfl
  · dsimp only
    split
    · split
      · exact (requestUnitStart_log i s).before.trans rfl
      · rfl
    · split
      · exact (requestUnitStop_log i s).before.trans rfl
      · rfl

theorem forChannels_before {f : Chan → State → State} (h : ∀ i s, BeforeFrame s (f i s)) (s : State) :
    BeforeFrame s (forChannels f s) :=
  (((h 0 s).trans (h 1 _)).trans (h 2 _)).trans (h 3 _)

theorem consumeLatches_before (s : State) : BeforeFrame s (consumeLatches s) :=
  ((consumeEmergencyStop_before s).trans (consumeSystemReset_before _)).trans
    (forChannels_before (fun i u => (consumeOverloadReset_before i u).trans (consumeStartStop_before i _)) _)

theorem consumeEdge_before (i : Chan) (s : State) : BeforeFrame s (consumeEdge i s) := by
  unfold consumeEdge
  split
  · rw [faultEntry_eq]
    rfl
  · rfl

theorem reflect_before (s : State) : BeforeFrame s (reflect s) := rfl

theorem tickBeforeFrame_before (s : State) : BeforeFrame s (tickBeforeFrame s) :=
  (((consumeLatches_before s).trans (forChannels_before consumeEdge_before _)).trans (updateAll_log _).before).trans
    (reflect_before _)

/-- Phase F does nothing, or latches the fault and shuts the block down (44_safety_supervisor R332). -/
theorem commTimeoutCheck_cases (s : State) :
    commTimeoutCheck s = s ∨
      (s.link.commArmed = true ∧ s.link.commFault = false ∧
        s.params.commTimeoutMs < (s.nowMs - s.link.lastValidMs).toNat ∧
        commTimeoutCheck s =
          (({ s with
              link := { s.link with commFault := true }
              stats := { s.stats with timeoutErrors := s.stats.timeoutErrors + 1 } } : State).shutdown 4).logged
            [.commTimeout]) := by
  unfold commTimeoutCheck
  split
  · rename_i h
    rw [commTimedOut, elapsedMs, Bool.and_eq_true, Bool.and_eq_true, decide_eq_true_eq] at h
    refine .inr ⟨h.1.1, by simpa using h.1.2, h.2, ?_⟩
    rw [emergencyStop_shutdown]
    rfl
  · exact .inl rfl

theorem commTimeoutCheck_quiet {s : State} (h : LinkQuiet s) : commTimeoutCheck s = s := by
  rcases commTimeoutCheck_cases s with e | ⟨h1, h2, h3, _⟩
  · exact e
  · rcases h with h | h | h
    · simp [h] at h1
    · simp [h] at h2
    · omega

theorem watchdogExpired_iff (s : State) :
    watchdogExpired s = true ↔ s.params.wdtTimeoutMs < (s.nowMs - s.wdt.lastKickMs).toNat := by
  unfold watchdogExpired elapsedMs
  exact decide_eq_true_iff

/-! ### Phase E and what follows it -/

/-- Phase E reaches the register store, the latches, the statistics, the link and the queues only. -/
theorem processFrame_frame {s t : State} (h : processFrame s = .next t) :
    t =
      { s with
        regs := t.regs, latches := t.latches, stats := t.stats, link := t.link, txq := t.txq
        rxq := s.rxq.tail
        env := { s.env with arrivedMs := t.env.arrivedMs } } := by
  obtain ⟨t', ht, hc⟩ := processFrame_cases s
  rw [h] at ht
  cases ht
  rcases hc with ⟨hq, rfl⟩ | ⟨e, rest, hq, ⟨d, rfl⟩ | ⟨ws, p, _, rfl⟩ | ⟨fc, code, _, rfl⟩⟩
  · rw [show t.rxq.tail = t.rxq by rw [hq]; rfl]
  · rw [hq]
    cases d <;> rfl
  · rw [hq]
    rfl
  · rw [hq]
    rfl

theorem processFrame_link {s t : State} (h : processFrame s = .next t) :
    t.link = s.link ∨ t.link = ⟨true, false, s.nowMs⟩ := by
  obtain ⟨t', ht, hc⟩ := processFrame_cases s
  rw [h] at ht
  cases ht
  rcases hc with ⟨_, rfl⟩ | ⟨e, rest, _, ⟨d, rfl⟩ | ⟨ws, p, _, rfl⟩ | ⟨fc, code, _, rfl⟩⟩
  · exact .inl rfl
  · exact .inl (by cases d <;> rfl)
  · exact .inr rfl
  · exact .inr rfl

/-- A response only quiets the supervision of the link. -/
theorem processFrame_quiet {s t : State} (h : processFrame s = .next t) (q : LinkQuiet s) : LinkQuiet t := by
  have hf := processFrame_frame h
  unfold LinkQuiet at *
  rw [show t.params = s.params by rw [hf], show t.nowMs = s.nowMs by rw [hf]]
  rcases processFrame_link h with e | e
  · rw [e]
    exact q
  · rw [e]
    exact .inr (.inr (by simp))

/-- A tick that answers `next t` went through its phases. -/
theorem tick_phases {s t : State} (h : exec .tick s = .next t) :
    ∃ e, processFrame (tickBeforeFrame s) = .next e ∧ t = tickAfterFrame e := by
  obtain ⟨e, he, ht⟩ := execTick_eq s
  exact ⟨e, he, by simpa [exec, ht] using h.symm⟩

@[simp] theorem tickAfterFrame_channels (s : State) : (tickAfterFrame s).channels = (commTimeoutCheck s).channels := rfl
@[simp] theorem tickAfterFrame_coord (s : State) : (tickAfterFrame s).coord = (commTimeoutCheck s).coord := rfl
@[simp] theorem tickAfterFrame_link (s : State) : (tickAfterFrame s).link = (commTimeoutCheck s).link := rfl
@[simp] theorem tickAfterFrame_stats (s : State) : (tickAfterFrame s).stats = (commTimeoutCheck s).stats := rfl
@[simp] theorem tickAfterFrame_params (s : State) : (tickAfterFrame s).params = s.params := by
  show (commTimeoutCheck s).params = s.params
  rcases commTimeoutCheck_cases s with e | ⟨_, _, _, e⟩
  · rw [e]
  · rw [e]
    rfl
@[simp] theorem tickAfterFrame_regs (s : State) : (tickAfterFrame s).regs = s.regs := by
  show (commTimeoutCheck s).regs = s.regs
  rcases commTimeoutCheck_cases s with e | ⟨_, _, _, e⟩
  · rw [e]
  · rw [e]
    rfl
@[simp] theorem tickAfterFrame_latches (s : State) : (tickAfterFrame s).latches = s.latches := by
  show (commTimeoutCheck s).latches = s.latches
  rcases commTimeoutCheck_cases s with e | ⟨_, _, _, e⟩
  · rw [e]
  · rw [e]
    rfl
@[simp] theorem tickAfterFrame_rxq (s : State) : (tickAfterFrame s).rxq = s.rxq := by
  show (commTimeoutCheck s).rxq = s.rxq
  rcases commTimeoutCheck_cases s with e | ⟨_, _, _, e⟩
  · rw [e]
  · rw [e]
    rfl
@[simp] theorem tickAfterFrame_txq (s : State) : (tickAfterFrame s).txq = s.txq := by
  show (commTimeoutCheck s).txq = s.txq
  rcases commTimeoutCheck_cases s with e | ⟨_, _, _, e⟩
  · rw [e]
  · rw [e]
    rfl
@[simp] theorem tickAfterFrame_ovlEdge (s : State) : (tickAfterFrame s).ovlEdge = s.ovlEdge := by
  show (commTimeoutCheck s).ovlEdge = s.ovlEdge
  rcases commTimeoutCheck_cases s with e | ⟨_, _, _, e⟩
  · rw [e]
  · rw [e]
    rfl
@[simp] theorem tickAfterFrame_flag (s : State) : (tickAfterFrame s).wdt.flag = s.wdt.flag := by
  show (commTimeoutCheck s).wdt.flag = s.wdt.flag
  rcases commTimeoutCheck_cases s with e | ⟨_, _, _, e⟩
  · rw [e]
  · rw [e]
    rfl

/-- Phase G: `RUN` follows the channel as phases A to F left it (70_reset_and_hazards R436). -/
theorem tickAfterFrame_runOut (s : State) (i : Chan) :
    (tickAfterFrame s).runOut.get i = true ↔ ((tickAfterFrame s).channels.get i).Active := by
  refine Iff.trans ?_ (isActive_iff _)
  simp [tickAfterFrame, wdtKick, applyOutputs, State.callOutputs, ch_eq]

/-- Phases F to H keep a channel or force it to Stopping. -/
theorem tickAfterFrame_channel (s : State) (i : Chan) :
    ((tickAfterFrame s).channels.get i = s.channels.get i ∧ (tickAfterFrame s).coord = s.coord) ∨
      (¬LinkQuiet s ∧ (tickAfterFrame s).channels.get i = (shutDown s.channels).get i ∧
        (tickAfterFrame s).coord.esActive = true) := by
  rw [tickAfterFrame_channels, tickAfterFrame_coord]
  rcases commTimeoutCheck_cases s with e | ⟨h1, h2, h3, e⟩
  · exact .inl (by rw [e]; exact ⟨rfl, rfl⟩)
  · refine .inr ⟨?_, by rw [e]; rfl, by rw [e]; rfl⟩
    rintro (h | h | h)
    · simp [h] at h1
    · simp [h] at h2
    · omega

/-! ### One channel through a tick -/

/-- What the two latches of a channel do to it, given `es_active` and whether `GLOBAL_ENABLE` is set
(41_register_access R212, R213). -/
def Channel.latched (c : Channel) (es enabled : Bool) (l : ChannelLatches) : Channel :=
  let d := if l.overloadReset = some 1 then c.cleared else c
  if l.startStop = some 1 then if enabled = true ∧ es = false then d.started else d
  else if l.startStop = some 0 then d.stopRequested
  else d

/-- Whether a latched start may pass (41_register_access R213). -/
def State.enabled (s : State) : Bool := decide (s.regs.globals.globalEnable ≠ 0)

/-! A latch that is not pending is not changed by clearing it. -/

theorem Latches.clear_emergencyStop {l : Latches} (h : l.emergencyStop = none) :
    l = { l with emergencyStop := none } := by
  cases l
  cases h
  rfl

theorem Latches.clear_systemReset {l : Latches} (h : l.systemReset = none) : l = { l with systemReset := none } := by
  cases l
  cases h
  rfl

theorem ChannelLatches.clear_startStop {l : ChannelLatches} (h : l.startStop = none) :
    { l with startStop := none } = l := by
  cases l
  cases h
  rfl

theorem ChannelLatches.clear_overloadReset {l : ChannelLatches} (h : l.overloadReset = none) :
    { l with overloadReset := none } = l := by
  cases l
  cases h
  rfl

theorem setMaster_esActive (m : MasterState) (s : State) : (setMaster m s).coord.esActive = s.coord.esActive := by
  unfold setMaster
  split <;> rfl

theorem consumeEmergencyStop_channels (s : State) :
    (consumeEmergencyStop s).channels =
      if ∃ v, s.latches.emergencyStop = some v ∧ v ≠ 0 then shutDown s.channels else s.channels := by
  unfold consumeEmergencyStop
  simp only [Latches.get]
  cases h : s.latches.emergencyStop with
  | none => simp
  | some v =>
    by_cases hv : v = 0
    · simp only [hv, ne_eq, not_true_eq_false, if_false, Option.some.injEq, exists_eq_left']
      show (clearEmergencyStop s).1.channels = s.channels
      rw [clearEmergencyStop_eq]
      split
      · rfl
      · exact setMaster_channels ..
    · simp only [ne_eq, hv, not_false_eq_true, if_true, emergencyStop_shutdown, Option.some.injEq, exists_eq_left']
      rfl

/-- `es_active` after the `EMERGENCY_STOP` latch (41_register_access R210). -/
theorem consumeEmergencyStop_esActive (s : State) :
    (consumeEmergencyStop s).coord.esActive =
      match s.latches.emergencyStop with
      | none => s.coord.esActive
      | some v => if v ≠ 0 then true else s.coord.esActive && s.link.commFault := by
  unfold consumeEmergencyStop
  simp only [Latches.get]
  cases h : s.latches.emergencyStop with
  | none => rfl
  | some v =>
    by_cases hv : v = 0
    · simp only [hv, ne_eq, not_true_eq_false, if_false]
      show (clearEmergencyStop s).1.coord.esActive = _
      rw [clearEmergencyStop_eq]
      cases hes : s.coord.esActive <;> cases hf : s.link.commFault <;>
        simp [State.logged, setMaster_esActive, setEsActive, hes]
    · simp only [ne_eq, hv, not_false_eq_true, if_true, emergencyStop_shutdown]
      rfl

theorem consumeSystemReset_ctrl (s : State) :
    (consumeSystemReset s).channels = s.channels ∧ (consumeSystemReset s).coord = s.coord := by
  unfold consumeSystemReset
  split
  · exact ⟨rfl, rfl⟩
  · dsimp only
    split <;> exact ⟨rfl, rfl⟩

/-- Phase A for one channel. -/
def latchStep (i : Chan) (s : State) : State := consumeStartStop i (consumeOverloadReset i s)

theorem consumeLatches_eq (s : State) :
    consumeLatches s = forChannels latchStep (consumeSystemReset (consumeEmergencyStop s)) := rfl

theorem consumeOverloadReset_spec (i : Chan) (s : State) :
    (consumeOverloadReset i s).channels =
        s.channels.set i
          (if (s.latches.channels.get i).overloadReset = some 1 then (s.channels.get i).cleared
          else s.channels.get i) ∧
      (consumeOverloadReset i s).coord.esActive = s.coord.esActive ∧
      (consumeOverloadReset i s).regs.globals = s.regs.globals ∧
      (consumeOverloadReset i s).latches =
        { s.latches with
          channels := s.latches.channels.set i { s.latches.channels.get i with overloadReset := none } } := by
  unfold consumeOverloadReset
  simp only [Latches.get]
  rcases h : (s.latches.channels.get i).overloadReset with _ | v
  · refine ⟨by simp, rfl, rfl, ?_⟩
    rw [ChannelLatches.clear_overloadReset h, Quad.set_get_self]
  · by_cases hv : v = 1
    · simp only [hv, if_true, reported, faultReturn_eq]
      exact ⟨rfl, rfl, rfl, rfl⟩
    · simp only [hv, if_false, Option.some.injEq, Quad.set_get_self]
      exact ⟨rfl, rfl, rfl, rfl⟩

theorem consumeStartStop_spec (i : Chan) (s : State) :
    (consumeStartStop i s).channels =
        s.channels.set i
          (if (s.latches.channels.get i).startStop = some 1 then
            if s.enabled = true ∧ s.coord.esActive = false then (s.channels.get i).started else s.channels.get i
          else if (s.latches.channels.get i).startStop = some 0 then (s.channels.get i).stopRequested
          else s.channels.get i) ∧
      (consumeStartStop i s).coord.esActive = s.coord.esActive ∧
      (consumeStartStop i s).regs.globals = s.regs.globals ∧
      (consumeStartStop i s).latches =
        { s.latches with
          channels := s.latches.channels.set i { s.latches.channels.get i with startStop := none } } := by
  have hs := (chStart_moved i s).mask
  have hp := (chStop_moved i s).mask
  unfold consumeStartStop
  simp only [Latches.get]
  rcases h : (s.latches.channels.get i).startStop with _ | v
  · refine ⟨by simp, rfl, rfl, ?_⟩
    rw [ChannelLatches.clear_startStop h, Quad.set_get_self]
  · by_cases hv : v = 1
    · simp only [hv, if_true]
      by_cases he : s.reg (.glob .globalEnable) = 0
      · have en : s.enabled = false := by simpa [State.enabled, State.reg, RegStore.get, GlobalRegs.get] using he
        simp only [he, ne_eq, not_true_eq_false, if_false, en, Bool.false_eq_true, false_and, Quad.set_get_self]
        exact ⟨rfl, rfl, rfl, rfl⟩
      · have en : s.enabled = true := by simpa [State.enabled, State.reg, RegStore.get, GlobalRegs.get] using he
        simp only [he, ne_eq, not_false_eq_true, if_true, en, true_and]
        unfold requestUnitStart
        cases hes : s.coord.esActive
        · simp only [Bool.false_eq_true, if_false, if_true]
          refine ⟨hs.channels, ?_, ?_, ?_⟩
          · show (recomputeActive (chStart i s).1).coord.esActive = false
            rw [hs, hes]
          · show (recomputeActive (chStart i s).1).regs.globals = _
            rw [hs]
          · show (recomputeActive (chStart i s).1).latches.set (.chan i .startStop) none = _
            rw [hs]
            rfl
        · simp only [if_true, Bool.true_eq_false, if_false, Quad.set_get_self]
          exact ⟨rfl, hes, rfl, rfl⟩
    · by_cases h0 : v = 0
      · simp only [h0, if_true, show ¬(0 : Word) = 1 by decide, if_false, Option.some.injEq]
        refine ⟨hp.channels, ?_, ?_, ?_⟩
        · show (recomputeActive (chStop i s).1).coord.esActive = _
          rw [hp]
        · show (recomputeActive (chStop i s).1).regs.globals = _
          rw [hp]
        · show (recomputeActive (chStop i s).1).latches.set (.chan i .startStop) none = _
          rw [hp]
          rfl
      · simp only [hv, h0, if_false, Option.some.injEq, Quad.set_get_self]
        exact ⟨rfl, rfl, rfl, rfl⟩

theorem latchStep_spec (i : Chan) (s : State) :
    (latchStep i s).channels =
        s.channels.set i ((s.channels.get i).latched s.coord.esActive s.enabled (s.latches.channels.get i)) ∧
      (latchStep i s).coord.esActive = s.coord.esActive ∧ (latchStep i s).regs.globals = s.regs.globals ∧
      (latchStep i s).latches = { s.latches with channels := s.latches.channels.set i ⟨none, none⟩ } := by
  obtain ⟨a1, a2, a3, a4⟩ := consumeOverloadReset_spec i s
  obtain ⟨b1, b2, b3, b4⟩ := consumeStartStop_spec i (consumeOverloadReset i s)
  have en : (consumeOverloadReset i s).enabled = s.enabled := by simp only [State.enabled, a3]
  refine ⟨?_, b2.trans a2, b3.trans a3, ?_⟩
  · rw [latchStep, b1, a1, a2, a4, en, Quad.set_set, Quad.get_set_self, Quad.get_set_self]
    rfl
  · rw [latchStep, b4, a4]
    simp

/-- A pass whose steps each change one channel and the latches of that channel. -/
theorem forChannels_latchStep (s : State) :
    (∀ i, (forChannels latchStep s).channels.get i =
        (s.channels.get i).latched s.coord.esActive s.enabled (s.latches.channels.get i)) ∧
      (forChannels latchStep s).coord.esActive = s.coord.esActive ∧
      (forChannels latchStep s).regs.globals = s.regs.globals ∧
      (forChannels latchStep s).latches =
        { s.latches with channels := ⟨⟨none, none⟩, ⟨none, none⟩, ⟨none, none⟩, ⟨none, none⟩⟩ } := by
  have c : ∀ i u, (latchStep i u).channels = _ := fun i u => (latchStep_spec i u).1
  have e : ∀ i u, (latchStep i u).coord.esActive = u.coord.esActive := fun i u => (latchStep_spec i u).2.1
  have g : ∀ i u, (latchStep i u).regs.globals = u.regs.globals := fun i u => (latchStep_spec i u).2.2.1
  have l : ∀ i u, (latchStep i u).latches = _ := fun i u => (latchStep_spec i u).2.2.2
  have n : ∀ i u, (latchStep i u).enabled = u.enabled := fun i u => by simp only [State.enabled, g]
  refine ⟨fun i => ?_, by simp only [forChannels, e], by simp only [forChannels, g], ?_⟩
  · simp only [forChannels, c, e, n, l]
    match i with
    | 0 | 1 | 2 | 3 => rfl
  · simp only [forChannels, l]
    rfl

/-- The channel the `EMERGENCY_STOP` latch leaves for phase A to go on with. -/
theorem consumeLatches_spec (s : State) :
    (∀ i, (consumeLatches s).channels.get i =
        ((consumeEmergencyStop s).channels.get i).latched (consumeEmergencyStop s).coord.esActive s.enabled
          (s.latches.channels.get i)) ∧
      (consumeLatches s).coord.esActive = (consumeEmergencyStop s).coord.esActive ∧
      (consumeLatches s).latches = Latches.reset := by
  obtain ⟨h1, h2, _, h4⟩ := forChannels_latchStep (consumeSystemReset (consumeEmergencyStop s))
  obtain ⟨k1, k2⟩ := consumeSystemReset_ctrl (consumeEmergencyStop s)
  have l1 : (consumeEmergencyStop s).latches = { s.latches with emergencyStop := none } ∧
      (consumeEmergencyStop s).regs = s.regs := by
    unfold consumeEmergencyStop
    simp only [Latches.get]
    rcases h : s.latches.emergencyStop with _ | v
    · exact ⟨Latches.clear_emergencyStop h, rfl⟩
    · have hl := clearEmergencyStop_log s
      dsimp only
      split
      · rw [emergencyStop_shutdown]
        exact ⟨rfl, rfl⟩
      · refine ⟨?_, ?_⟩
        · show (clearEmergencyStop s).1.latches.set (.glob .emergencyStop) none = _
          rw [hl]
          rfl
        · show (clearEmergencyStop s).1.regs = _
          rw [hl]
  have l2 : ∀ u : State, (consumeSystemReset u).latches = { u.latches with systemReset := none } ∧
      (consumeSystemReset u).enabled = u.enabled := by
    intro u
    unfold consumeSystemReset
    simp only [Latches.get]
    rcases h : u.latches.systemReset with _ | v
    · exact ⟨Latches.clear_systemReset h, rfl⟩
    · dsimp only
      split <;> exact ⟨rfl, rfl⟩
  have en : (consumeSystemReset (consumeEmergencyStop s)).enabled = s.enabled := by
    rw [(l2 _).2]
    simp only [State.enabled, l1.2]
  refine ⟨fun i => ?_, ?_, ?_⟩
  · rw [consumeLatches_eq, h1, k1, k2, en, (l2 _).1, l1.1]
  · rw [consumeLatches_eq, h2, k2]
  · rw [consumeLatches_eq, h4, (l2 _).1, l1.1]
    rfl

/-- An overload edge on one channel (70_reset_and_hazards R432). -/
def Channel.edged (c : Channel) (edge : Bool) : Channel := if edge = true then c.entered .overload else c

theorem consumeEdge_spec (i : Chan) (s : State) :
    (consumeEdge i s).channels = s.channels.set i ((s.channels.get i).edged (s.ovlEdge.get i)) ∧
      (consumeEdge i s).ovlEdge = s.ovlEdge.set i false ∧
      (consumeEdge i s).coord.esActive = s.coord.esActive := by
  unfold consumeEdge Channel.edged
  cases h : s.ovlEdge.get i
  · refine ⟨by simp, ?_, rfl⟩
    simp only [Bool.false_eq_true, if_false]
    rw [← h, Quad.set_get_self]
  · simp only [if_true, faultEntry_eq]
    exact ⟨rfl, rfl, rfl⟩

theorem consumeEdges_spec (s : State) :
    (∀ i, (forChannels consumeEdge s).channels.get i = (s.channels.get i).edged (s.ovlEdge.get i)) ∧
      (forChannels consumeEdge s).ovlEdge = ⟨false, false, false, false⟩ ∧
      (forChannels consumeEdge s).coord.esActive = s.coord.esActive := by
  have c : ∀ i u, (consumeEdge i u).channels = _ := fun i u => (consumeEdge_spec i u).1
  have o : ∀ i u, (consumeEdge i u).ovlEdge = _ := fun i u => (consumeEdge_spec i u).2.1
  have e : ∀ i u, (consumeEdge i u).coord.esActive = u.coord.esActive := fun i u => (consumeEdge_spec i u).2.2
  refine ⟨fun i => ?_, ?_, by simp only [forChannels, e]⟩
  · simp only [forChannels, c, o]
    match i with
    | 0 | 1 | 2 | 3 => rfl
  · simp only [forChannels, o]
    rfl

theorem consumeLatches_ovlEdge (s : State) : (consumeLatches s).ovlEdge = s.ovlEdge := by
  have k1 : ∀ i u, (consumeStartStop i u).ovlEdge = u.ovlEdge := fun i u => by
    unfold consumeStartStop
    split
    · rfl
    · dsimp only
      split
      · split
        · show (requestUnitStart i u).1.ovlEdge = _
          rw [requestUnitStart_log i u]
        · rfl
      · split
        · show (requestUnitStop i u).1.ovlEdge = _
          rw [requestUnitStop_log i u]
        · rfl
  have k2 : ∀ i u, (consumeOverloadReset i u).ovlEdge = u.ovlEdge := fun i u => by
    unfold consumeOverloadReset
    split
    · rfl
    · dsimp only
      split
      · show (faultReturn i u).1.ovlEdge = _
        rw [faultReturn_log i u]
      · rfl
  have k3 : ∀ u, (consumeSystemReset u).ovlEdge = u.ovlEdge := fun u => by
    unfold consumeSystemReset
    split
    · rfl
    · dsimp only
      split <;> rfl
  have k4 : (consumeEmergencyStop s).ovlEdge = s.ovlEdge := by
    unfold consumeEmergencyStop
    split
    · rfl
    · dsimp only
      split
      · rw [emergencyStop_shutdown]
        rfl
      · show (clearEmergencyStop s).1.ovlEdge = _
        rw [clearEmergencyStop_log s]
  simp only [consumeLatches, forChannels, k1, k2, k3, k4]

/-- `update()` reads neither the latches nor the edges, and keeps `es_active` (43_coordinator R300). -/
theorem updateAll_ahead (u : State) :
    (updateAll u).latches = u.latches ∧ (updateAll u).ovlEdge = u.ovlEdge ∧
      (updateAll u).coord.esActive = u.coord.esActive := by
  rw [updateAll_eq]
  exact ⟨rfl, rfl, rfl⟩

theorem updateAll_master (u : State) :
    (updateAll u).coord.masterState = masterFor u.coord.esActive (updateAll u).channels := by
  rw [updateAll_eq]
  rfl

/-- Phase D writes status registers only. -/
theorem reflect_ahead (u : State) :
    (reflect u).channels = u.channels ∧ (reflect u).coord = u.coord ∧ (reflect u).latches = u.latches ∧
      (reflect u).ovlEdge = u.ovlEdge := ⟨rfl, rfl, rfl, rfl⟩

/-- Phases A to D on one channel, on `es_active`, on the latches and on the edges. -/
theorem tickBeforeFrame_spec (s : State) :
    (∀ i, (tickBeforeFrame s).channels.get i =
        ((((consumeEmergencyStop s).channels.get i).latched (consumeEmergencyStop s).coord.esActive s.enabled
          (s.latches.channels.get i)).edged (s.ovlEdge.get i)).updated s.params.startTimeoutTicks) ∧
      (tickBeforeFrame s).coord.esActive = (consumeEmergencyStop s).coord.esActive ∧
      (tickBeforeFrame s).coord.masterState =
        masterFor (tickBeforeFrame s).coord.esActive (tickBeforeFrame s).channels ∧
      (tickBeforeFrame s).latches = Latches.reset ∧
      (tickBeforeFrame s).ovlEdge = ⟨false, false, false, false⟩ := by
  obtain ⟨a1, a2, a3⟩ := consumeLatches_spec s
  obtain ⟨b1, b2, b3⟩ := consumeEdges_spec (consumeLatches s)
  have hA := consumeLatches_before s
  have hB := hA.trans (forChannels_before consumeEdge_before _)
  have hl : (forChannels consumeEdge (consumeLatches s)).latches = (consumeLatches s).latches := by
    have k : ∀ i u, (consumeEdge i u).latches = u.latches := fun i u => by
      unfold consumeEdge
      split
      · rw [faultEntry_eq]
        rfl
      · rfl
    simp only [forChannels, k]
  have hp : (forChannels consumeEdge (consumeLatches s)).params = s.params := by rw [hB]
  have ho := consumeLatches_ovlEdge s
  obtain ⟨r1, r2, r3, r4⟩ := reflect_ahead (updateAll (forChannels consumeEdge (consumeLatches s)))
  obtain ⟨u1, u2, u3⟩ := updateAll_ahead (forChannels consumeEdge (consumeLatches s))
  unfold tickBeforeFrame
  rw [r1, r2, r3, r4, u1, u2, u3, hl, a3, b2, b3, a2]
  refine ⟨fun i => ?_, rfl, ?_, rfl, rfl⟩
  · rw [updateAll_channels, Quad.get_ofFn, hp, b1, a1, ho]
  · rw [updateAll_master, b3, a2]

/-! ### The fault code and the snapshot through a tick -/

/-- A nonzero `EMERGENCY_STOP` latch runs the safety shutdown and leaves 5 (41_register_access R210). -/
theorem consumeEmergencyStop_nonzero {s : State} {v : Word} (h : s.latches.emergencyStop = some v) (hv : v ≠ 0) :
    consumeEmergencyStop s =
      ((s.shutdown 5).logged [.requestResult .emergencyStop none true]).setLatch (.glob .emergencyStop) none := by
  unfold consumeEmergencyStop
  simp only [Latches.get, h, ne_eq, hv, not_false_eq_true, if_true, emergencyStop_shutdown]
  rfl

/-- An operation that writes neither `fault_code` nor the snapshot. -/
def CodeSnapKept (s t : State) : Prop := t.coord.faultCode = s.coord.faultCode ∧ t.snap = s.snap

theorem CodeSnapKept.trans {s t u : State} (h : CodeSnapKept s t) (k : CodeSnapKept t u) : CodeSnapKept s u :=
  ⟨k.1.trans h.1, k.2.trans h.2⟩

theorem CodeSnapKept.forChannels {f : Chan → State → State} (h : ∀ i s, CodeSnapKept s (f i s)) (s : State) :
    CodeSnapKept s (forChannels f s) :=
  (((h 0 s).trans (h 1 _)).trans (h 2 _)).trans (h 3 _)

theorem consumeSystemReset_code (s : State) : CodeSnapKept s (consumeSystemReset s) := by
  unfold consumeSystemReset
  split
  · exact ⟨rfl, rfl⟩
  · dsimp only
    split <;> exact ⟨rfl, rfl⟩

theorem consumeOverloadReset_code (i : Chan) (s : State) : CodeSnapKept s (consumeOverloadReset i s) := by
  unfold consumeOverloadReset
  split
  · exact ⟨rfl, rfl⟩
  · dsimp only
    split
    · rw [faultReturn_eq]
      exact ⟨rfl, rfl⟩
    · exact ⟨rfl, rfl⟩

theorem requestUnitStart_code (i : Chan) (s : State) : CodeSnapKept s (requestUnitStart i s).1 := by
  unfold requestUnitStart
  split
  · exact ⟨rfl, rfl⟩
  · refine ⟨chStart_code i s, ?_⟩
    show (recomputeActive (chStart i s).1).snap = _
    rw [(chStart_moved i s).mask]

theorem requestUnitStop_code (i : Chan) (s : State) : CodeSnapKept s (requestUnitStop i s).1 :=
  ⟨chStop_code i s, by rw [requestUnitStop, (chStop_moved i s).mask]⟩

theorem consumeStartStop_code (i : Chan) (s : State) : CodeSnapKept s (consumeStartStop i s) := by
  unfold consumeStartStop
  split
  · exact ⟨rfl, rfl⟩
  · dsimp only
    split
    · split
      · exact requestUnitStart_code i s
      · exact ⟨rfl, rfl⟩
    · split
      · exact requestUnitStop_code i s
      · exact ⟨rfl, rfl⟩

/-- Only the `EMERGENCY_STOP` latch writes `fault_code` or the snapshot in phase A. -/
theorem consumeLatches_code (s : State) : CodeSnapKept (consumeEmergencyStop s) (consumeLatches s) :=
  (consumeSystemReset_code _).trans
    (CodeSnapKept.forChannels (fun i u => (consumeOverloadReset_code i u).trans (consumeStartStop_code i _)) _)

/-- No edge, nothing to do in phase B. -/
theorem consumeEdges_none {s : State} (h : ∀ i, s.ovlEdge.get i = false) : forChannels consumeEdge s = s := by
  simp [forChannels, consumeEdge, h]

theorem consumeEdges_snap (s : State) : (forChannels consumeEdge s).snap = s.snap := by
  have k : ∀ i u, (consumeEdge i u).snap = u.snap := fun i u => by
    unfold consumeEdge
    split
    · rw [faultEntry_eq]
      rfl
    · rfl
  simp only [forChannels, k]

/-- `update()` writes `fault_code` only for a channel it finds Starting (42_channel_fsm R236). -/
theorem updateAll_code {s : State} (h : ∀ i, (s.channels.get i).state ≠ .starting) :
    (updateAll s).coord.faultCode = s.coord.faultCode := by
  have u : ∀ (n : Nat) (c : Channel), c.state ≠ .starting → (c.updated n).state ≠ .starting := fun n c hc => by
    unfold Channel.updated
    split
    · contradiction
    · simp [Channel.withState]
    · exact hc
  have step : ∀ (i : Chan) (t : State), (∀ j, (t.channels.get j).state ≠ .starting) →
      (∀ j, ((chUpdate i t).channels.get j).state ≠ .starting) ∧
        (chUpdate i t).coord.faultCode = t.coord.faultCode := fun i t ht => by
    refine ⟨fun j => ?_, by rw [chUpdate_code, if_neg (fun k => ht i k.1)]⟩
    rw [chUpdate_channels, Quad.get_set]
    split
    · exact u _ _ (ht i)
    · exact ht j
  obtain ⟨c0, e0⟩ := step 0 s h
  obtain ⟨c1, e1⟩ := step 1 _ c0
  obtain ⟨c2, e2⟩ := step 2 _ c1
  obtain ⟨_, e3⟩ := step 3 _ c2
  rw [updateAll_eq]
  exact e3.trans (e2.trans (e1.trans e0))

/-- Phases A to D take a snapshot only by the `EMERGENCY_STOP` latch (44_safety_supervisor R350). -/
theorem tickBeforeFrame_snap (s : State) : (tickBeforeFrame s).snap = (consumeEmergencyStop s).snap := by
  have u : ∀ t, (updateAll t).snap = t.snap := fun t => by
    rw [updateAll_eq]
    rfl
  have r : ∀ t, (reflect t).snap = t.snap := fun _ => rfl
  rw [tickBeforeFrame, r, u, consumeEdges_snap, (consumeLatches_code s).2]

/-- Phases A to D write `fault_code` only by the `EMERGENCY_STOP` latch, an edge, or a start that waited too long. -/
theorem tickBeforeFrame_code {s : State} (he : ∀ i, s.ovlEdge.get i = false)
    (hs : ∀ i, ((consumeLatches s).channels.get i).state ≠ .starting) :
    (tickBeforeFrame s).coord.faultCode = (consumeEmergencyStop s).coord.faultCode := by
  have e : forChannels consumeEdge (consumeLatches s) = consumeLatches s :=
    consumeEdges_none (by rw [consumeLatches_ovlEdge]; exact he)
  have r := (reflect_ahead (updateAll (forChannels consumeEdge (consumeLatches s)))).2.1
  rw [tickBeforeFrame, r, e, updateAll_code hs, (consumeLatches_code s).1]

/-- Phases F to H take a snapshot only by a communication timeout outside an emergency stop. -/
theorem tickAfterFrame_snap {s : State} (h : s.coord.esActive = true) : (tickAfterFrame s).snap = s.snap := by
  show (commTimeoutCheck s).snap = s.snap
  rcases commTimeoutCheck_cases s with e | ⟨_, _, _, e⟩
  · rw [e]
  · rw [e]
    exact if_pos h

/-! ### The step -/

theorem decodeInput_port (w : Word) : decodeInput (.port w) = decodeCommand w := rfl

/-- A step only chooses what `exec` runs: the state it runs it on differs in the model's own fields. -/
theorem step_eq (s : State) :
    ∃ (i : Instr) (inbox : List Input) (turn : Nat),
      step s = exec i { s with env := { s.env with inbox := inbox, turn := turn } } := by
  have h : step s = exec (decodeInput (nextInput s).1) (nextInput s).2 := rfl
  have hn : ∃ (inbox : List Input) (turn : Nat),
      (nextInput s).2 = { s with env := { s.env with inbox := inbox, turn := turn } } := by
    unfold nextInput
    cases s.env.inbox with
    | cons x rest => exact ⟨rest, s.env.turn, rfl⟩
    | nil => exact ⟨s.env.inbox, s.env.turn + 1, rfl⟩
  obtain ⟨inbox, turn, hs⟩ := hn
  exact ⟨_, inbox, turn, h.trans (congrArg (exec _) hs)⟩

end Sys2Proof.Machine
end

