-- ==== Sys2Proof/Laws/PerInstr.lean ====
section
/-! SUPPORT. One law for each constructor of `Instr`: the encoder writes the four wire requests as frames and every other
operation as an agent step (30_encoding R104, R117, R119), the command words under their own opcode. -/

namespace Sys2Proof.Laws

/-- The opcode of R117 a command word is written under; none for a wire request and for an internal event. -/
def opcodeOf : Instr → Option Byte
  | .readHoldingRegisters _ _ => none
  | .writeSingleRegister _ _ => none
  | .writeMultipleRegisters _ _ _ _ => none
  | .illegalFunction _ => none
  | .coordStart _ => some 0x01
  | .coordStop _ => some 0x02
  | .unitStart _ => some 0x03
  | .unitStop _ => some 0x04
  | .reportFault _ _ => some 0x05
  | .emergencyStop => some 0x06
  | .clearEstop => some 0x07
  | .unitReset _ => some 0x08
  | .setInhibit _ _ => some 0x09
  | .confirmStart _ => some 0x0A
  | .update => some 0x0B
  | .reservedCommand op => some op
  | .frame _ => none
  | .txDone => none
  | .tick => none
  | .advance _ => none
  | .wdtExpire => none
  | .overloadEdge _ => none
  | .powerOn => none

/-- The function code of R104 a wire request is written under; none for the others. -/
def functionOf : Instr → Option Byte
  | .readHoldingRegisters _ _ => some 0x03
  | .writeSingleRegister _ _ => some 0x06
  | .writeMultipleRegisters _ _ _ _ => some 0x10
  | .illegalFunction fc => some fc
  | .coordStart _ => none
  | .coordStop _ => none
  | .unitStart _ => none
  | .unitStop _ => none
  | .reportFault _ _ => none
  | .emergencyStop => none
  | .clearEstop => none
  | .unitReset _ => none
  | .setInhibit _ _ => none
  | .confirmStart _ => none
  | .update => none
  | .reservedCommand _ => none
  | .frame _ => none
  | .txDone => none
  | .tick => none
  | .advance _ => none
  | .wdtExpire => none
  | .overloadEdge _ => none
  | .powerOn => none

/-- The statement of the family: where an operation is written, and under which code, for every slave address. -/
def EncodingKind.Statement (i : Instr) : Prop :=
  ∀ sa : Byte,
    match encode sa i with
    | .wire f => byteAt f 0 = sa ∧ some (byteAt f 1) = functionOf i ∧ opcodeOf i = none
    | .input (.port w) => some (opOf w) = opcodeOf i ∧ functionOf i = none
    | .input _ => opcodeOf i = none ∧ functionOf i = none

/-- The opcode of a command word, whatever its argument. -/
theorem opOf_commandWord (op arg : Byte) : opOf (commandWord op arg) = op := by
  apply BitVec.eq_of_getLsbD_eq
  intro i hi
  simp only [opOf, hiByte, commandWord, BitVec.getLsbD_extractLsb', hi, decide_true, Bool.true_and]
  rw [BitVec.getLsbD_append, if_neg (by omega), Nat.add_sub_cancel_left]

namespace EncodingKind

theorem readHoldingRegisters (start qty : Word) : Statement (.readHoldingRegisters start qty) :=
  fun _ => ⟨rfl, rfl, rfl⟩

theorem writeSingleRegister (reg value : Word) : Statement (.writeSingleRegister reg value) :=
  fun _ => ⟨rfl, rfl, rfl⟩

theorem writeMultipleRegisters (start qty : Word) (bc : Byte) (data : List Byte) :
    Statement (.writeMultipleRegisters start qty bc data) :=
  fun _ => ⟨rfl, rfl, rfl⟩

theorem illegalFunction (fc : Byte) : Statement (.illegalFunction fc) := fun _ => ⟨rfl, rfl, rfl⟩

theorem coordStart (mask : BitVec 4) : Statement (.coordStart mask) :=
  fun _ => ⟨congrArg some (opOf_commandWord ..), rfl⟩

theorem coordStop (mask : BitVec 4) : Statement (.coordStop mask) :=
  fun _ => ⟨congrArg some (opOf_commandWord ..), rfl⟩

theorem unitStart (idx : Byte) : Statement (.unitStart idx) := fun _ => ⟨congrArg some (opOf_commandWord ..), rfl⟩

theorem unitStop (idx : Byte) : Statement (.unitStop idx) := fun _ => ⟨congrArg some (opOf_commandWord ..), rfl⟩

theorem reportFault (ov : Bool) (idx : BitVec 7) : Statement (.reportFault ov idx) :=
  fun _ => ⟨congrArg some (opOf_commandWord ..), rfl⟩

theorem emergencyStop : Statement .emergencyStop := fun _ => ⟨congrArg some (opOf_commandWord ..), rfl⟩

theorem clearEstop : Statement .clearEstop := fun _ => ⟨congrArg some (opOf_commandWord ..), rfl⟩

theorem unitReset (idx : Byte) : Statement (.unitReset idx) := fun _ => ⟨congrArg some (opOf_commandWord ..), rfl⟩

theorem setInhibit (b : Bool) (idx : BitVec 7) : Statement (.setInhibit b idx) :=
  fun _ => ⟨congrArg some (opOf_commandWord ..), rfl⟩

theorem confirmStart (idx : Byte) : Statement (.confirmStart idx) :=
  fun _ => ⟨congrArg some (opOf_commandWord ..), rfl⟩

theorem update : Statement .update := fun _ => ⟨congrArg some (opOf_commandWord ..), rfl⟩

theorem reservedCommand (op : Byte) : Statement (.reservedCommand op) :=
  fun _ => ⟨congrArg some (opOf_commandWord ..), rfl⟩

theorem frame (bytes : List Byte) : Statement (.frame bytes) := fun _ => ⟨rfl, rfl⟩

theorem txDone : Statement .txDone := fun _ => ⟨rfl, rfl⟩

theorem tick : Statement .tick := fun _ => ⟨rfl, rfl⟩

theorem advance (dt : U32) : Statement (.advance dt) := fun _ => ⟨rfl, rfl⟩

theorem wdtExpire : Statement .wdtExpire := fun _ => ⟨rfl, rfl⟩

theorem overloadEdge (i : Chan) : Statement (.overloadEdge i) := fun _ => ⟨rfl, rfl⟩

theorem powerOn : Statement .powerOn := fun _ => ⟨rfl, rfl⟩

end EncodingKind

end Sys2Proof.Laws
end

