-- ==== Sys2Proof/Laws/Whole.lean ====
section
/-! SUPPORT. What any operation can do, said once: which part of the state it can reach (`exec_cases`), and what becomes
of one channel (`exec_channel`). A tick is described by the lemmas of Laws/Events.lean. -/

namespace Sys2Proof.Machine

/-! ### The wire requests -/

/-- Whether an operation is one of the four a request frame can stand for (30_encoding R104). -/
def isWire : Instr → Bool
  | .readHoldingRegisters .. | .writeSingleRegister .. | .writeMultipleRegisters .. | .illegalFunction .. => true
  | _ => false

theorem Answered.channels {s t : State} (h : Answered s t) : t.channels = s.channels := by
  rcases h with ⟨ws, p, _, rfl⟩ | ⟨fc, code, _, rfl⟩ <;> rfl

theorem Answered.coord {s t : State} (h : Answered s t) : t.coord = s.coord := by
  rcases h with ⟨ws, p, _, rfl⟩ | ⟨fc, code, _, rfl⟩ <;> rfl

theorem exec_wire_answered {i : Instr} {s t : State} (hi : isWire i = true) (h : exec i s = .next t) :
    Answered s t := by
  cases i with
  | readHoldingRegisters a q =>
    obtain ⟨u, e, ha⟩ := execReadHoldingRegisters_answered a q s
    simp only [exec] at h
    rw [e] at h
    cases h
    exact ha
  | writeSingleRegister a v =>
    obtain ⟨u, e, ha⟩ := execWriteSingleRegister_answered a v s
    simp only [exec] at h
    rw [e] at h
    cases h
    exact ha
  | writeMultipleRegisters a q b d =>
    obtain ⟨u, e, ha⟩ := execWriteMultipleRegisters_answered a q b d s
    simp only [exec] at h
    rw [e] at h
    cases h
    exact ha
  | illegalFunction f =>
    obtain ⟨u, e, ha⟩ := execIllegalFunction_answered f s
    simp only [exec] at h
    rw [e] at h
    cases h
    exact ha
  | _ => cases hi

/-! ### Which part of the state -/

theorem LogFrame.toSnap {s t : State} (h : LogFrame s t) : SnapFrame s t := by
  unfold LogFrame SnapFrame at *
  rw [h]

theorem answered_snap {s : State} {r : State × Bool} (h : SnapFrame s r.1) : SnapFrame s (answered r) := by
  unfold SnapFrame at *
  unfold answered State.answer
  rw [h]

theorem onChannel_snap {n : Nat} {idx : BitVec n} {f : Chan → State → State × Bool} {s : State}
    (h : ∀ i, SnapFrame s (f i s).1) : SnapFrame s (answered (onChannel idx f s)) := by
  apply answered_snap
  unfold onChannel
  split
  · exact h _
  · rfl

/-- A request is answered; a command word reaches the channels, the coordinator, the snapshot, the diagnostics and its
answer only; the rest are the events. -/
theorem exec_cases {i : Instr} {s t : State} (h : exec i s = .next t) :
    (isWire i = true ∧ Answered s t) ∨ SnapFrame s t ∨ i = .tick ∨ i = .powerOn ∨
      (i = .wdtExpire ∧ t = watchdogEntry s ∧ s.params.wdtTimeoutMs < (s.nowMs - s.wdt.lastKickMs).toNat) ∨
      (∃ b, i = .frame b) ∨ i = .txDone ∨ (∃ d, i = .advance d) ∨ ∃ c, i = .overloadEdge c := by
  cases i with
  | readHoldingRegisters a q => exact .inl ⟨rfl, exec_wire_answered rfl h⟩
  | writeSingleRegister a v => exact .inl ⟨rfl, exec_wire_answered rfl h⟩
  | writeMultipleRegisters a q b d => exact .inl ⟨rfl, exec_wire_answered rfl h⟩
  | illegalFunction f => exact .inl ⟨rfl, exec_wire_answered rfl h⟩
  | tick => simp
  | coordStart m =>
    obtain rfl := Host.Outcome.next.inj h
    exact .inr (.inl (answered_snap (requestCoordinatedStart_ctrl m s).toSnap))
  | coordStop m =>
    obtain rfl := Host.Outcome.next.inj h
    exact .inr (.inl (answered_snap (requestCoordinatedStop_ctrl m s).toSnap))
  | unitStart idx =>
    obtain rfl := Host.Outcome.next.inj h
    exact .inr (.inl (onChannel_snap fun i => (requestUnitStart_log i s).toSnap))
  | unitStop idx =>
    obtain rfl := Host.Outcome.next.inj h
    exact .inr (.inl (onChannel_snap fun i => (requestUnitStop_log i s).toSnap))
  | reportFault ov idx =>
    obtain rfl := Host.Outcome.next.inj h
    exact .inr (.inl (onChannel_snap fun i => (faultEntry_log i ov s).toSnap))
  | emergencyStop =>
    obtain rfl := Host.Outcome.next.inj h
    rw [emergencyStop_shutdown]
    exact .inr (.inl (answered_snap (r := (_, true)) (shutdown_log s 5).toSnap))
  | clearEstop =>
    obtain rfl := Host.Outcome.next.inj h
    exact .inr (.inl (answered_snap (clearEmergencyStop_log s).toSnap))
  | unitReset idx =>
    obtain rfl := Host.Outcome.next.inj h
    exact .inr (.inl (onChannel_snap fun i => (faultReturn_log i s).toSnap))
  | setInhibit b idx =>
    obtain rfl := Host.Outcome.next.inj h
    exact .inr (.inl (onChannel_snap fun _ => rfl))
  | confirmStart idx =>
    obtain rfl := Host.Outcome.next.inj h
    exact .inr (.inl (onChannel_snap fun i => (chConfirm_ctrl i s).toSnap))
  | update =>
    obtain rfl := Host.Outcome.next.inj h
    exact .inr (.inl (answered_snap (r := (_, true)) (updateAll_log s).toSnap))
  | reservedCommand op =>
    obtain rfl := Host.Outcome.next.inj h
    exact .inr (.inl rfl)
  | frame b => simp
  | txDone => simp
  | advance d => simp
  | wdtExpire =>
    simp only [exec, execWdtExpire] at h
    split at h <;> cases h
    · rename_i hw
      exact .inr (.inr (.inr (.inr (.inl ⟨rfl, rfl, (watchdogExpired_iff s).mp hw⟩))))
    · exact .inr (.inl rfl)
  | overloadEdge j => simp
  | powerOn => simp

/-! ### One channel -/

theorem chanOf_toNat {n : Nat} {idx : BitVec n} {i : Chan} (h : chanOf idx = some i) : idx.toNat = i.val := by
  unfold chanOf at h
  split at h
  · cases h
    rfl
  · cases h

theorem faultEntry_channels (j : Chan) (ov : Bool) (s : State) :
    (faultEntry j ov s).channels = s.channels.set j ((s.channels.get j).entered (if ov then .overload else .fault)) :=
  congrArg State.channels (faultEntry_eq j ov s)

theorem faultReturn_channels (j : Chan) (s : State) :
    (faultReturn j s).1.channels = s.channels.set j (s.channels.get j).cleared :=
  congrArg (fun p : State × Bool => p.1.channels) (faultReturn_eq j s)

/-- What an operation other than a tick may do to channel `c`. -/
inductive ChannelChange (s t : State) (c : Chan) : Instr → Prop
  | keep (i : Instr) (h : t.channels.get c = s.channels.get c) : ChannelChange s t c i
  | inhibit (i : Instr) (b : Bool) (h : t.channels.get c = { s.channels.get c with inhibit := b }) :
    ChannelChange s t c i
  | confirm (i : Instr) (h : t.channels.get c = { s.channels.get c with confirmed := true }) : ChannelChange s t c i
  | coordStart (m : BitVec 4) (hm : m.getLsbD c.val = true) (he : s.coord.esActive = false)
    (h : t.channels.get c = (s.channels.get c).started) : ChannelChange s t c (.coordStart m)
  | unitStart (idx : Byte) (hm : idx.toNat = c.val) (he : s.coord.esActive = false)
    (h : t.channels.get c = (s.channels.get c).started) : ChannelChange s t c (.unitStart idx)
  | stop (i : Instr) (h : t.channels.get c = (s.channels.get c).stopRequested) : ChannelChange s t c i
  | force (i : Instr) (h : t.channels.get c = (s.channels.get c).forceStopped) : ChannelChange s t c i
  | upd (i : Instr) (h : t.channels.get c = (s.channels.get c).updated s.params.startTimeoutTicks) :
    ChannelChange s t c i
  | fault (i : Instr) (ov : Bool)
    (h : t.channels.get c = (s.channels.get c).entered (if ov then .overload else .fault)) : ChannelChange s t c i
  | clear (idx : Byte) (hm : idx.toNat = c.val) (h : t.channels.get c = (s.channels.get c).cleared) :
    ChannelChange s t c (.unitReset idx)
  | cold (h : t.channels.get c = Channel.reset) : ChannelChange s t c .powerOn
  | wdt (he : s.params.wdtTimeoutMs < (s.nowMs - s.wdt.lastKickMs).toNat) (h : t.channels.get c = Channel.reset) :
    ChannelChange s t c .wdtExpire

/-- What any operation but a tick does to a channel. -/
theorem exec_channel {i : Instr} {s t : State} (h : exec i s = .next t) (c : Chan) (ht : i ≠ .tick) :
    ChannelChange s t c i := by
  cases i with
  | readHoldingRegisters a q => exact .keep _ (by rw [(exec_wire_answered rfl h).channels])
  | writeSingleRegister a q => exact .keep _ (by rw [(exec_wire_answered rfl h).channels])
  | writeMultipleRegisters a q b d => exact .keep _ (by rw [(exec_wire_answered rfl h).channels])
  | illegalFunction f => exact .keep _ (by rw [(exec_wire_answered rfl h).channels])
  | coordStart m =>
    simp only [exec, execCoordStart] at h
    obtain rfl := Host.Outcome.next.inj h
    by_cases hn : m = 0 ∨ s.coord.esActive = true
    · refine .keep _ ?_
      simp only [requestCoordinatedStart, hn, if_true]
      rfl
    · by_cases hb : m.getLsbD c.val = true
      · refine .coordStart m hb (by simpa using (not_or.mp hn).2) ?_
        show (requestCoordinatedStart m s).1.channels.get c = _
        rw [requestCoordinatedStart_channels m s hn, Quad.get_ofFn, maskBit, if_pos hb]
      · refine .keep _ ?_
        show (requestCoordinatedStart m s).1.channels.get c = _
        rw [requestCoordinatedStart_channels m s hn, Quad.get_ofFn, maskBit, if_neg hb]
  | coordStop m =>
    simp only [exec, execCoordStop] at h
    obtain rfl := Host.Outcome.next.inj h
    have : (answered (requestCoordinatedStop m s)).channels.get c = _ := congrArg (Quad.get · c) (requestCoordinatedStop_channels m s)
    rw [Quad.get_ofFn] at this
    split at this
    · exact .stop _ this
    · exact .keep _ this
  | unitStart idx =>
    simp only [exec, execUnitStart, onChannel] at h
    obtain rfl := Host.Outcome.next.inj h
    cases hc : chanOf idx with
    | none => exact .keep _ rfl
    | some j =>
      dsimp only
      unfold requestUnitStart
      cases he : s.coord.esActive
      · have k := (chStart_moved j s).mask.channels
        by_cases hj : c = j
        · subst hj
          refine .unitStart idx (chanOf_toNat hc) he ?_
          show (recomputeActive (chStart c s).1).channels.get c = _
          rw [k]
          simp
        · refine .keep _ ?_
          show (recomputeActive (chStart j s).1).channels.get c = _
          rw [k]
          simp [Quad.get_set, hj]
      · exact .keep _ rfl
  | unitStop idx =>
    simp only [exec, execUnitStop, onChannel] at h
    obtain rfl := Host.Outcome.next.inj h
    cases hc : chanOf idx with
    | none => exact .keep _ rfl
    | some j =>
      dsimp only
      have k := (chStop_moved j s).mask.channels
      by_cases hj : c = j
      · subst hj
        refine .stop _ ?_
        show (recomputeActive (chStop c s).1).channels.get c = _
        rw [k]
        simp
      · refine .keep _ ?_
        show (recomputeActive (chStop j s).1).channels.get c = _
        rw [k]
        simp [Quad.get_set, hj]
  | reportFault ov idx =>
    simp only [exec, execReportFault, onChannel] at h
    obtain rfl := Host.Outcome.next.inj h
    cases hc : chanOf idx with
    | none => exact .keep _ rfl
    | some j =>
      dsimp only
      by_cases hj : c = j
      · subst hj
        refine .fault _ ov ?_
        show (faultEntry c ov s).channels.get c = _
        rw [faultEntry_channels, Quad.get_set_self]
      · refine .keep _ ?_
        show (faultEntry j ov s).channels.get c = _
        rw [faultEntry_channels, Quad.get_set, if_neg hj]
  | emergencyStop =>
    simp only [exec, execEmergencyStop] at h
    obtain rfl := Host.Outcome.next.inj h
    refine .force _ ?_
    rw [answered, State.answer_channels, State.setFaultCode_channels, emergencyStop_channels, Quad.get_ofFn]
  | clearEstop =>
    simp only [exec, execClearEstop] at h
    obtain rfl := Host.Outcome.next.inj h
    refine .keep _ ?_
    show (clearEmergencyStop s).1.channels.get c = _
    rw [clearEmergencyStop_eq]
    split
    · rfl
    · show (setMaster _ _).channels.get c = _
      rw [setMaster_channels]
      rfl
  | unitReset idx =>
    simp only [exec, execUnitReset, onChannel] at h
    obtain rfl := Host.Outcome.next.inj h
    cases hc : chanOf idx with
    | none => exact .keep _ rfl
    | some j =>
      dsimp only
      by_cases hj : c = j
      · subst hj
        refine .clear idx (chanOf_toNat hc) ?_
        show (faultReturn c s).1.channels.get c = _
        rw [faultReturn_channels, Quad.get_set_self]
      · refine .keep _ ?_
        show (faultReturn j s).1.channels.get c = _
        rw [faultReturn_channels, Quad.get_set, if_neg hj]
  | setInhibit b idx =>
    simp only [exec, execSetInhibit, onChannel] at h
    obtain rfl := Host.Outcome.next.inj h
    cases hc : chanOf idx with
    | none => exact .keep _ rfl
    | some j =>
      dsimp only
      by_cases hj : c = j
      · subst hj
        exact .inhibit _ b (Quad.get_set_self ..)
      · exact .keep _ ((Quad.get_set ..).trans (if_neg hj))
  | confirmStart idx =>
    simp only [exec, execConfirmStart, onChannel] at h
    obtain rfl := Host.Outcome.next.inj h
    cases hc : chanOf idx with
    | none => exact .keep _ rfl
    | some j =>
      dsimp only
      unfold chConfirm
      split
      · by_cases hj : c = j
        · subst hj
          exact .confirm _ (Quad.get_set_self ..)
        · exact .keep _ ((Quad.get_set ..).trans (if_neg hj))
      · exact .keep _ rfl
  | update =>
    simp only [exec, execUpdate] at h
    obtain rfl := Host.Outcome.next.inj h
    refine .upd _ ?_
    show (updateAll s).channels.get c = _
    rw [updateAll_channels, Quad.get_ofFn]
  | reservedCommand op =>
    cases h
    exact .keep _ rfl
  | frame b => simp only [exec, execFrame] at h; split at h <;> cases h <;> exact .keep _ rfl
  | txDone =>
    cases h
    exact .keep _ rfl
  | tick => exact absurd rfl ht
  | advance d =>
    cases h
    exact .keep _ rfl
  | wdtExpire =>
    simp only [exec, execWdtExpire] at h
    split at h
    · rename_i hw
      obtain rfl := Host.Outcome.next.inj h
      refine .wdt ((watchdogExpired_iff s).mp hw) ?_
      match c with | 0 | 1 | 2 | 3 => rfl
    · cases h
      exact .keep _ rfl
  | overloadEdge j =>
    cases h
    exact .keep _ rfl
  | powerOn =>
    obtain rfl := Host.Outcome.next.inj h
    refine .cold ?_
    match c with | 0 | 1 | 2 | 3 => rfl

end Sys2Proof.Machine
end

