-- ==== Sys2Proof/Tests/Slice0.lean ====
section
/-! SUPPORT. The model's own tests. Expected results come from the spec: its encodings (30_encoding R104 to R118), its
worked examples and its vectors (95_test_vectors), or a hand calculation from the rule a comment names. Each is one
operation or one step on a small state. The last part shows states that meet the hypotheses of the obligations. -/

namespace Sys2Proof.Tests

open Sys2Proof Sys2Proof.Machine

/-! ### Well-formedness: an ill-formed term for each check -/

theorem test_wf_refuses_data_length : (Instr.writeMultipleRegisters 0x0100 1 2 [0x00]).wellFormed = false := by decide
theorem test_wf_refuses_long_frame :
    (Instr.writeMultipleRegisters 0x0100 124 248 (List.replicate 248 0)).wellFormed = false := by decide +kernel
theorem test_wf_refuses_supported_function : (Instr.illegalFunction 0x03).wellFormed = false := by decide
theorem test_wf_refuses_used_opcode : (Instr.reservedCommand 0x01).wellFormed = false := by decide
theorem test_wf_refuses_no_time : (Instr.advance 0).wellFormed = false := by decide

/-! ### CRC-16 (95 section 2.1) -/

theorem test_crc_empty : crc16 [] = 0xFFFF := by decide
theorem test_crc_check_value : crc16 [0x31, 0x32, 0x33, 0x34, 0x35, 0x36, 0x37, 0x38, 0x39] = 0x4B37 := by
  decide +kernel
theorem test_crc_read_request : crc16 [0x01, 0x03, 0x00, 0x00, 0x00, 0x01] = 0x0A84 := by decide +kernel
theorem test_crc_residue : crc16 [0x01, 0x03, 0x00, 0x00, 0x00, 0x01, 0x84, 0x0A] = 0 := by decide +kernel

/-! ### Decoding of words written out from the encodings -/

/-- 30_encoding R105: 01 | 03 | START 0000 | QTY 0002 | CRC C4 0B. -/
theorem test_decode_read :
    decode 1 (.wire [0x01, 0x03, 0x00, 0x00, 0x00, 0x02, 0xC4, 0x0B]) = .ok (.readHoldingRegisters 0x0000 2) := by
  decide +kernel
/-- R107: 01 | 06 | REG 0101 | VALUE 0096 | CRC 59 98. -/
theorem test_decode_write_single :
    decode 1 (.wire [0x01, 0x06, 0x01, 0x01, 0x00, 0x96, 0x59, 0x98]) = .ok (.writeSingleRegister 0x0101 150) := by
  decide +kernel
/-- R109: 01 | 10 | START 0100 | QTY 0002 | BYTE_COUNT 04 | 0001 0032 | CRC 2E 2A. -/
theorem test_decode_write_multiple :
    decode 1 (.wire [0x01, 0x10, 0x01, 0x00, 0x00, 0x02, 0x04, 0x00, 0x01, 0x00, 0x32, 0x2E, 0x2A]) =
      .ok (.writeMultipleRegisters 0x0100 2 4 [0x00, 0x01, 0x00, 0x32]) := by
  decide +kernel
/-- 95 section 2.3. -/
theorem test_decode_illegal_function :
    decode 1 (.wire [0x01, 0x2B, 0x0E, 0x01, 0x00, 0x70, 0x77]) = .ok (.illegalFunction 0x2B) := by decide +kernel
/-- 95 section 2.2: a frame for another station, and one of the wrong length. -/
theorem test_decode_other_station :
    decode 1 (.wire [0x02, 0x03, 0x00, 0x00, 0x00, 0x01, 0x84, 0x39]) = .error .otherStation := by decide +kernel
theorem test_decode_wrong_length :
    decode 1 (.wire [0x01, 0x03, 0x00, 0x00, 0x00, 0x01, 0x00, 0x0A, 0x63]) = .error .wrongLength := by decide +kernel
/-- 30_encoding R116, R117, 95 section 2.11: OP in bits 15..8, F in bit 7, IDX and MASK in the low bits. -/
theorem test_decode_coord_start : decodeCommand 0b00000001_00001111 = .coordStart 0b1111 := by decide
theorem test_decode_coord_stop : decodeCommand 0b00000010_00000011 = .coordStop 0b0011 := by decide
theorem test_decode_unit_start : decodeCommand 0b00000011_00000010 = .unitStart 2 := by decide
theorem test_decode_unit_stop : decodeCommand 0b00000100_10000001 = .unitStop 0x81 := by decide
theorem test_decode_report_fault : decodeCommand 0b00000101_10000011 = .reportFault true 3 := by decide
theorem test_decode_emergency_stop : decodeCommand 0b00000110_00000000 = .emergencyStop := by decide
theorem test_decode_clear_estop : decodeCommand 0b00000111_00000000 = .clearEstop := by decide
theorem test_decode_unit_reset : decodeCommand 0b00001000_00000001 = .unitReset 1 := by decide
theorem test_decode_set_inhibit : decodeCommand 0b00001001_10000001 = .setInhibit true 1 := by decide
theorem test_decode_confirm_start : decodeCommand 0b00001010_00000001 = .confirmStart 1 := by decide
theorem test_decode_update : decodeCommand 0b00001011_00000000 = .update := by decide
theorem test_decode_reserved : decodeCommand 0b00001100_00000000 = .reservedCommand 0x0C := by decide
/-- 30_encoding R116: `ARG[7:4]` of a mask operation is ignored. -/
theorem test_decode_mask_high_bits : decodeCommand 0x0110 = .coordStart 0 := by decide
/-- R119: the events have no bits. -/
theorem test_decode_events :
    [Input.frame [7], .txDone, .tick, .advance 5, .wdtExpire, .overloadEdge 2, .powerOn].map decodeInput =
      [.frame [7], .txDone, .tick, .advance 5, .wdtExpire, .overloadEdge 2, .powerOn] := by decide
/-- The opcode table's own words: FUNC alone, the operand bytes 0, and a command word. -/
theorem test_table_word_write_multiple : decodeTableWord 8 0x10 = some (.writeMultipleRegisters 0 0 0 []) := by
  decide +kernel
theorem test_table_word_report_fault : decodeTableWord 16 0x0583 = some (.reportFault true 3) := by decide

/-! ### Small states -/

/-- The state after an operation that has one. -/
def after (i : Instr) (s : State) : Option State :=
  match exec i s with
  | .next t => some t
  | .fault _ => none
  | .refused _ => none

/-- Reset with the four channels in given states, the mask and the master state given. -/
def withChannels (a b c d : ChannelState) (mask : BitVec 4) (m : MasterState) : State :=
  let ch (x : ChannelState) : Channel := { Channel.reset with state := x }
  { State.reset with
    channels := ⟨ch a, ch b, ch c, ch d⟩
    coord := { Coordinator.reset with masterState := m, activeMask := mask } }

/-- Every channel Running. -/
def allRunning : State := withChannels .running .running .running .running 0b1111 .running

/-- Channel 3 in Overload, the others Stopped. -/
def oneOverload : State := withChannels .stopped .stopped .stopped .overload 0 .idle

/-- An emergency stop with every channel Stopped. -/
def stoppedByEmergency : State :=
  { State.reset with coord := { Coordinator.reset with masterState := .emergencyStop, esActive := true } }

/-- Reset with one latch pending. -/
def latched (r : Reg) (v : Word) (s : State) : State := s.setLatch r (some v)

/-- The channel states, the active mask, the master state, the fault code and the transition count. -/
def summary (s : State) : List ChannelState × Nat × MasterState × Nat × Nat :=
  ([s.ch 0, s.ch 1, s.ch 2, s.ch 3], s.coord.activeMask.toNat, s.coord.masterState, s.coord.faultCode.toNat,
    s.coord.transitionCount.toNat)

/-! ### The wire requests (95 sections 2.3 to 2.6) -/

theorem test_read_system_block :
    (after (.readHoldingRegisters 0x0000 2) State.reset).map (·.txq) =
      some [[0x01, 0x03, 0x04, 0x00, 0x00, 0x00, 0x00, 0xFA, 0x33]] := by decide +kernel
theorem test_read_across_blocks :
    (after (.readHoldingRegisters 0x000F 2) State.reset).map (·.txq) = some [[0x01, 0x83, 0x02, 0xC0, 0xF1]] := by
  decide +kernel
theorem test_write_single_clamps :
    (after (.writeSingleRegister 0x0101 150) State.reset).map
        (fun t => (t.reg (.chan 0 .amplitudeSetpoint), t.txq)) =
      some (100, [[0x01, 0x06, 0x01, 0x01, 0x00, 0x96, 0x59, 0x98]]) := by decide +kernel
theorem test_write_single_not_boolean :
    (after (.writeSingleRegister 0x0132 3) State.reset).map
        (fun t => (t.latches.get (.chan 3 .overloadReset), t.stats.illegalValue, t.txq)) =
      some (none, 1, [[0x01, 0x86, 0x03, 0x02, 0x61]]) := by decide +kernel
theorem test_write_multiple_stores :
    (after (.writeMultipleRegisters 0x0100 3 6 [0, 1, 0, 50, 0, 1]) State.reset).map
        (fun t => (t.reg (.chan 0 .amplitudeSetpoint), t.latches.get (.chan 0 .startStop),
          t.latches.get (.chan 0 .overloadReset), t.txq)) =
      some (50, some 1, some 1, [[0x01, 0x10, 0x01, 0x00, 0x00, 0x03, 0x81, 0xF4]]) := by decide +kernel
theorem test_write_multiple_all_or_nothing :
    (after (.writeMultipleRegisters 0x0100 4 8 [0, 1, 0, 50, 0, 0, 0, 0]) State.reset).map
        (fun t => (t.reg (.chan 0 .amplitudeSetpoint), t.latches.get (.chan 0 .startStop), t.txq)) =
      some (20, none, [[0x01, 0x90, 0x02, 0xCD, 0xC1]]) := by decide +kernel
theorem test_illegal_function :
    (after (.illegalFunction 0x2B) State.reset).map (fun t => (t.stats.illegalFunction, t.txq)) =
      some (1, [[0x01, 0xAB, 0x01, 0x9E, 0xF0]]) := by decide +kernel

/-! ### The command words (95 sections 1.1, 2.7, 2.8) -/

theorem test_coord_start :
    (after (.coordStart 0b1111) State.reset).map summary =
      some ([.starting, .starting, .starting, .starting], 0b1111, .coordinatedStart, 0, 5) := by decide
theorem test_coord_start_skips_faulted :
    (after (.coordStart 0b1111) oneOverload).map summary =
      some ([.starting, .starting, .starting, .overload], 0b0111, .coordinatedStart, 0, 4) := by decide
theorem test_coord_stop :
    (after (.coordStop 0b0011) allRunning).map summary =
      some ([.stopping, .stopping, .running, .running], 0b1100, .running, 0, 2) := by decide
theorem test_unit_start :
    (after (.unitStart 2) State.reset).map (fun t => (summary t, t.env.cmdResult)) =
      some (([.stopped, .stopped, .starting, .stopped], 0b0100, .idle, 0, 1), some true) := by decide
theorem test_unit_start_no_channel :
    (after (.unitStart 4) State.reset).map (fun t => (summary t, t.env.cmdResult)) =
      some (summary State.reset, some false) := by decide
theorem test_unit_stop :
    (after (.unitStop 0) allRunning).map summary =
      some ([.stopping, .running, .running, .running], 0b1110, .running, 0, 1) := by decide
theorem test_report_fault :
    (after (.reportFault false 3) allRunning).map summary =
      some ([.running, .running, .running, .fault], 0b0111, .running, 2, 1) := by decide
theorem test_emergency_stop :
    (after .emergencyStop allRunning).map (fun t => (summary t, t.snap.valid, t.snap.state)) =
      some (([.stopping, .stopping, .stopping, .stopping], 0, .emergencyStop, 5, 5), true,
        ⟨.running, .running, .running, .running⟩) := by decide
theorem test_emergency_stop_twice :
    (after .emergencyStop stoppedByEmergency).map (fun t => (summary t, t.snap.valid)) =
      some (([.stopped, .stopped, .stopped, .stopped], 0, .emergencyStop, 5, 0), false) := by decide
theorem test_clear_estop :
    (after .clearEstop stoppedByEmergency).map (fun t => (summary t, t.coord.esActive)) =
      some (([.stopped, .stopped, .stopped, .stopped], 0, .idle, 0, 1), false) := by decide
theorem test_clear_estop_with_comm_fault :
    (after .clearEstop { stoppedByEmergency with link := ⟨true, true, 0⟩ }).map
        (fun t => (t.coord.esActive, t.env.cmdResult)) = some (true, some false) := by decide
theorem test_unit_reset :
    (after (.unitReset 3) oneOverload).map (fun t => (summary t, t.env.cmdResult)) =
      some (([.stopped, .stopped, .stopped, .stopped], 0, .idle, 0, 1), some true) := by decide
theorem test_set_inhibit :
    (after (.setInhibit true 1) State.reset).map (fun t => [0, 1, 2, 3].map fun i => (t.channels.get i).inhibit) =
      some [false, true, false, false] := by decide
theorem test_confirm_start_only_in_starting :
    (after (.confirmStart 0) State.reset).map (fun t => ((t.channels.get 0).confirmed, t.env.cmdResult)) =
      some (false, some false) := by decide
/-- P5 step 5: `start_wait = 2` before, `START_TIMEOUT_TICKS = 2`. -/
theorem test_update_start_timeout :
    (after .update { State.reset with channels := State.reset.channels.set 1 ⟨.starting, 2, false, true⟩ }).map summary =
      some ([.stopped, .fault, .stopped, .stopped], 0, .idle, 3, 1) := by decide
theorem test_update_start_runs :
    (after .update { State.reset with channels := State.reset.channels.set 1 ⟨.starting, 1, true, true⟩ }).map summary =
      some ([.stopped, .running, .stopped, .stopped], 0b0010, .running, 0, 2) := by decide
theorem test_reserved_word_false :
    (after (.reservedCommand 0xFF) allRunning).map (fun t => (summary t, t.env.cmdResult)) =
      some (summary allRunning, some false) := by decide

/-! ### The internal events -/

/-- 95 section 2.2, queue overflow at depth 1. -/
theorem test_frame_overflow :
    (after (.frame [2]) { State.reset with rxq := [⟨[1], 0⟩] }).map (fun t => (t.rxq, t.stats.malformed)) =
      some ([⟨[1], 0⟩], 1) := by decide
theorem test_frame_arrival_time :
    (after (.frame [2]) { State.reset with nowMs := 40 }).map (·.rxq) = some [⟨[2], 40⟩] := by decide
theorem test_tx_done_oldest_first :
    (after .txDone { State.reset with txq := [[1], [2]] }).map (·.txq) = some [[2]] := by decide
/-- 60_exceptions R401: time wraps. -/
theorem test_advance_wraps :
    (after (.advance 2) { State.reset with nowMs := 0xFFFFFFFF }).map (·.nowMs) = some 1 := by decide
/-- P1 step 3: a latched start with `GLOBAL_ENABLE` set. -/
theorem test_tick_register_start :
    (after .tick (latched (.chan 0 .startStop) 1 (State.reset.setReg (.glob .globalEnable) 1))).map
        (fun t => (summary t, t.runOut)) =
      some (([.running, .stopped, .stopped, .stopped], 0b0001, .running, 0, 3), ⟨true, false, false, false⟩) := by
  decide +kernel
/-- 95 section 2.9: 1001 ms of silence. -/
theorem test_tick_comm_timeout :
    (after .tick { State.reset with link := ⟨true, false, 0⟩, nowMs := 1001 }).map
        (fun t => (t.link.commFault, summary t)) =
      some (true, ([.stopped, .stopped, .stopped, .stopped], 0, .emergencyStop, 4, 1)) := by decide +kernel
/-- P6 step 4. -/
theorem test_wdt_expire :
    (after .wdtExpire { allRunning with nowMs := 501 }).map
        (fun t => (summary t, t.nowMs, t.reg (.sys .sysStatus), t.reg (.chan 0 .prevState))) =
      some (summary State.reset, 0, 0x0004, 2) := by decide +kernel
/-- 95 section 2.9: 500 is not more than 500. -/
theorem test_wdt_not_enabled : after .wdtExpire { allRunning with nowMs := 500 } = some { allRunning with nowMs := 500 } := by
  decide +kernel
theorem test_overload_edge :
    (after (.overloadEdge 2) State.reset).map (·.ovlEdge) = some ⟨false, false, true, false⟩ := by decide
theorem test_power_on :
    (after .powerOn { allRunning with nowMs := 7, txq := [[1]] }).map (fun t => (summary t, t.txq)) =
      some (summary State.reset, []) := by decide +kernel

/-! ### Reset and the step -/

/-- 95 section 2.10: a channel block after `POWER_ON`. -/
theorem test_reset_channel_block :
    [0, 1, 2, 3, 4, 5, 6, 7, 8].map (fun k => regValueAt State.reset (0x0130 + k)) =
      [0, 20, 0, 0, 0, 0, 0, 0xFFFF, 0] := by decide
theorem test_step_runs_fetch_word :
    (match step (State.reset.withFetchWord 16 0x0302) with
      | .next t => some (summary t)
      | _ => none) = some ([.stopped, .stopped, .starting, .stopped], 0b0100, .idle, 0, 1) := by decide
/-- FUNC 0x06 with operand bytes 0: a write to the read-only `SYS_STATUS`. -/
theorem test_step_runs_fetch_frame :
    (match step (State.reset.withFetchWord 8 0x06) with
      | .next t => some t.txq
      | _ => none) = some [[0x01, 0x86, 0x02, 0xC3, 0xA1]] := by decide +kernel

/-! ### States that meet the hypotheses of the obligations -/

/-- Any state whose mask is exact, shown by evaluation of the four channels. -/
theorem maskExact_of_all {s : State}
    (h : [0, 1, 2, 3].all (fun i => maskBit s.coord.activeMask i == decide (s.channels.get i).Active) = true) :
    MaskExact s := by
  simp only [List.all_cons, List.all_nil, Bool.and_true, Bool.and_eq_true, beq_iff_eq] at h
  intro i
  match i with
  | 0 => rw [h.1, decide_eq_true_eq]
  | 1 => rw [h.2.1, decide_eq_true_eq]
  | 2 => rw [h.2.2.1, decide_eq_true_eq]
  | 3 => rw [h.2.2.2, decide_eq_true_eq]

/-- DecodeEncodeRoundTrip: the longest write-multiple, 256 bytes. -/
theorem witness_round_trip : (Instr.writeMultipleRegisters 0x0100 123 247 (List.replicate 247 0)).wellFormed = true := by
  decide +kernel

/-- The 8-byte read of 95 section 2.1, good CRC. -/
def goodFrame : List Byte := [0x01, 0x03, 0x00, 0x00, 0x00, 0x01, 0x84, 0x0A]

/-- Reset with one frame delivered at time 0. -/
def delivered (f : List Byte) : State := { State.reset with rxq := [⟨f, 0⟩] }

/-- CrcResidueIsZero: a list of two bytes. -/
theorem witness_crc_residue : 2 ≤ ([0xFF, 0xFF] : List Byte).length := by decide

/-- CorruptedByteIsDropped: the last byte, then the address byte. -/
theorem witness_corrupted :
    4 ≤ goodFrame.length ∧ goodFrame.length ≤ 256 ∧ byteAt goodFrame 0 = State.reset.params.slaveAddr ∧
      le16 goodFrame (goodFrame.length - 2) = crc16 (goodFrame.take (goodFrame.length - 2)) ∧
      7 < goodFrame.length ∧ (0x0B : Byte) ≠ byteAt goodFrame 7 ∧ (0x02 : Byte) ≠ byteAt goodFrame 0 ∧
      (delivered (goodFrame.set 7 0x0B)).rxq = [⟨goodFrame.set 7 0x0B, 0⟩] ∧
      (delivered (goodFrame.set 0 0x02)).rxq = [⟨goodFrame.set 0 0x02, 0⟩] := by decide +kernel

/-- DroppedFramesOnlyCount: 3 and 257 bytes; another station; a bad CRC; a write-multiple of 8 bytes. -/
theorem witness_dropped_length : ([0x01, 0x03, 0x00] : List Byte).length < 4 ∧ 256 < (List.replicate 257 (1 : Byte)).length := by
  decide +kernel
theorem witness_dropped_station :
    byteAt [0x02, 0x03, 0x00, 0x00, 0x00, 0x01, 0x84, 0x39] 0 ≠ State.reset.params.slaveAddr := by decide
theorem witness_dropped_crc :
    le16 [0x01, 0x03, 0x00, 0x00, 0x00, 0x01, 0x84, 0x0B] 6 ≠ crc16 [0x01, 0x03, 0x00, 0x00, 0x00, 0x01] := by
  decide +kernel
theorem witness_dropped_wrong_length :
    let f : List Byte := [0x01, 0x10, 0x01, 0x00, 0x00, 0x01, 0x00, 0x35]
    byteAt f 0 = State.reset.params.slaveAddr ∧ le16 f (f.length - 2) = crc16 (f.take (f.length - 2)) ∧
      byteAt f 1 = 0x10 ∧ f.length < 9 := by decide +kernel

/-- RegisterAddressMap: the first and the last address of each undefined part. -/
theorem witness_undefined_addresses :
    [0x13, 0xFF, 0x109, 0x10F, 0x139, 0x13F, 0x140, 0xFFFF].map regAt = List.replicate 8 none := by decide

/-- RangeInOneBlockIsDefined, ReadAnswersTheRegisters: the whole system block, and the last register of channel 3. -/
theorem witness_range : inOneBlock 0x0000 16 = true ∧ inOneBlock 0x0138 1 = true ∧ inOneBlock 0xFFFF 2 = false := by decide

/-- ReadExceptions: quantity 0 and 126, and a range across two blocks with quantity 2. -/
theorem witness_read_exceptions :
    (0 : Word).toNat = 0 ∧ 125 < (126 : Word).toNat ∧ 1 ≤ (2 : Word).toNat ∧ (2 : Word).toNat ≤ 125 ∧
      inOneBlock 0x000F (2 : Word).toNat = false := by decide

/-- WriteSingleStores, WriteThenReadRoundTrip: the last boolean register with 1, a setpoint above the range, and (for
the first) a previous-state register. -/
theorem witness_write_single :
    regAt 0x0132 = some (.chan 3 .overloadReset) ∧ accepts (.chan 3 .overloadReset) 1 ∧
      regAt 0x0101 = some (.chan 0 .amplitudeSetpoint) ∧ accepts (.chan 0 .amplitudeSetpoint) 0xFFFF ∧
      regAt 0x0107 = some (.chan 0 .prevState) ∧ accepts (.chan 0 .prevState) 1 ∧
      (Reg.chan 3 .overloadReset).cls ≠ .roDiag := by
  refine ⟨by decide, ⟨by decide, by decide⟩, by decide, ⟨by decide, by decide⟩, by decide, ⟨by decide, by decide⟩,
    by decide⟩

/-- WriteSingleExceptions: an undefined address, a read-only register, a boolean register with 2. -/
theorem witness_write_single_exceptions :
    regAt 0x0013 = none ∧ regAt 0x0000 = some (.sys .sysStatus) ∧ (Reg.sys .sysStatus).cls = .ro ∧
      regAt 0x0100 = some (.chan 0 .startStop) ∧ (Reg.chan 0 .startStop).cls = .rwBool ∧ (2 : Word) ≠ 0 ∧
      (2 : Word) ≠ 1 := by decide

/-- WriteMultipleStoresAll: `WRITEN 0x0100, [1, 500, 1]`. -/
theorem witness_write_multiple :
    (6 : Byte).toNat = 2 * (3 : Word).toNat ∧ inOneBlock 0x0100 (3 : Word).toNat = true ∧
      ∀ k < (3 : Word).toNat, ∃ r, regAt ((0x0100 : Word).toNat + k) = some r ∧
        accepts r (be16 [0x00, 0x01, 0x01, 0xF4, 0x00, 0x01] (2 * k)) := by
  refine ⟨by decide, by decide, fun k hk => ?_⟩
  match k, hk with
  | 0, _ => exact ⟨.chan 0 .startStop, by decide, by decide, by decide⟩
  | 1, _ => exact ⟨.chan 0 .amplitudeSetpoint, by decide, by decide, by decide⟩
  | 2, _ => exact ⟨.chan 0 .overloadReset, by decide, by decide, by decide⟩

/-- WriteMultipleExceptions: a byte count of 2 for 2 registers and a quantity of 124; a range across blocks; a
read-only register at offset +3 of the range; the value 2 at offset +2. -/
theorem witness_write_multiple_count : (2 : Byte).toNat ≠ 2 * (2 : Word).toNat ∧ 123 < (124 : Word).toNat := by decide
theorem witness_write_multiple_address : (4 : Byte).toNat = 2 * (2 : Word).toNat ∧ inOneBlock 0x000F 2 = false := by decide
theorem witness_write_multiple_read_only :
    inOneBlock 0x0100 4 = true ∧ regAt (0x0100 + 3) = some (.chan 0 .power) ∧ (Reg.chan 0 .power).cls = .ro := by decide
theorem witness_write_multiple_value :
    inOneBlock 0x0100 3 = true ∧ (∀ k < 3, ∀ r, regAt (0x0100 + k) = some r → r.cls ≠ .ro) ∧
      regAt (0x0100 + 2) = some (.chan 0 .overloadReset) ∧ (Reg.chan 0 .overloadReset).cls = .rwBool ∧
      be16 [0x00, 0x00, 0x00, 0xC8, 0x00, 0x02] (2 * 2) = 2 := by
  refine ⟨by decide, fun k hk r hr => ?_, by decide, by decide, by decide⟩
  match k, hk with
  | 0, _ => cases hr; decide
  | 1, _ => cases hr; decide
  | 2, _ => cases hr; decide

/-- OutOfRangeIndexAnswersFalse: the first index out of range, in both widths. -/
theorem witness_index : 3 < (4 : Byte).toNat ∧ 3 < (4 : BitVec 7).toNat := by decide

/-- The statements about one channel: index 3 names channel 3, in both widths. -/
theorem witness_channel : (3 : Byte).toNat = (3 : Chan).val ∧ (3 : BitVec 7).toNat = (3 : Chan).val := by decide

/-- UnitStartResult, UnitStopResult, CoordStopResult, ClearEstopResult, UnitResetResult: states with an exact mask, one
for each case. -/
theorem witness_mask_reset : MaskExact State.reset := maskExact_of_all (by decide)
theorem witness_mask_running : MaskExact allRunning := maskExact_of_all (by decide)
theorem witness_mask_overload : MaskExact oneOverload := maskExact_of_all (by decide)
theorem witness_mask_emergency : MaskExact stoppedByEmergency := maskExact_of_all (by decide)

/-- AgentStepsTouchOnlyTheirState, DisabledStepsChangeNothing: a queued response, the least time, an empty queue, and a
watchdog at its bound. -/
theorem witness_agents : ({ State.reset with txq := [[1]] } : State).txq = [1] :: [] ∧ (1 : U32) ≠ 0 ∧ State.reset.txq = [] ∧
    (({ State.reset with nowMs := 500 } : State).nowMs - State.reset.wdt.lastKickMs).toNat ≤
      State.reset.params.wdtTimeoutMs := by decide

/-- WatchdogResetResult and the last premise of OutputsOffInEmergencyStop: one millisecond past the bound. -/
theorem witness_watchdog :
    State.reset.params.wdtTimeoutMs < (({ State.reset with nowMs := 501 } : State).nowMs - State.reset.wdt.lastKickMs).toNat := by
  decide

/-- StoreReadAfterWrite: a register without a latch in each block. -/
theorem witness_no_latch :
    (Reg.sys .masterState).hasLatch = false ∧ (Reg.glob .globalEnable).hasLatch = false ∧
      (Reg.chan 3 .amplitudeSetpoint).hasLatch = false := by decide

/-- TickConsumesLatchesAndEdges, PulseRegistersAreConsumed: no frame, and both pulses latched. -/
theorem witness_pulses :
    let s := latched (.glob .systemReset) 0xFFFF (latched (.chan 3 .overloadReset) 1 State.reset)
    s.rxq = [] ∧ s.latches.systemReset = some 0xFFFF ∧ (0xFFFF : Word) ≠ 0 ∧
      (s.latches.channels.get 3).overloadReset = some 1 := by decide

/-- PulseRegistersAreConsumed, its clauses on a faulted channel: the reset alone, for each faulted state; the reset with
a start without enable; the reset with a start that passes. -/
theorem witness_overload_reset :
    let s := latched (.chan 0 .overloadReset) 1 ({ State.reset with
      channels := State.reset.channels.set 0 ⟨.overload, 0, false, true⟩ } : State)
    (s.channels.get 0).Faulted ∧ (s.latches.channels.get 0).overloadReset = some 1 ∧ s.ovlEdge.get 0 = false ∧
      (s.latches.channels.get 0).startStop ≠ some 1 := by decide
theorem witness_fault_reset :
    let s := latched (.chan 3 .startStop) 1 (latched (.chan 3 .overloadReset) 1 ({ State.reset with
      channels := State.reset.channels.set 3 ⟨.fault, 0, false, false⟩ } : State))
    (s.channels.get 3).Faulted ∧ (s.latches.channels.get 3).overloadReset = some 1 ∧ s.ovlEdge.get 3 = false ∧
      (s.latches.channels.get 3).startStop = some 1 ∧ s.regs.globals.globalEnable = 0 := by decide
theorem witness_reset_then_start :
    let s := latched (.chan 3 .startStop) 1 (latched (.chan 3 .overloadReset) 1 (({ State.reset with
      channels := State.reset.channels.set 3 ⟨.overload, 0, false, false⟩ } : State).setReg (.glob .globalEnable) 1))
    (s.channels.get 3).Faulted ∧ (s.latches.channels.get 3).overloadReset = some 1 ∧ s.ovlEdge.get 3 = false ∧
      (s.latches.channels.get 3).startStop = some 1 ∧ s.regs.globals.globalEnable ≠ 0 ∧
      (s.channels.get 3).inhibit = false ∧ s.coord.esActive = false ∧ s.latches.emergencyStop = none ∧ LinkQuiet s :=
  ⟨by decide, by decide, by decide, by decide, by decide, by decide, by decide, by decide, .inl (by decide)⟩

/-- OverloadEdgeForcesOverload. -/
theorem witness_edge : ({ State.reset with ovlEdge := ⟨false, false, false, true⟩ } : State).ovlEdge.get 3 = true := by decide

/-- EmergencyLatchDominates: the least nonzero value, with no edge and a quiet link; the greatest, in an emergency stop. -/
theorem witness_emergency_latch :
    let s := latched (.glob .emergencyStop) 1 State.reset
    s.latches.emergencyStop = some 1 ∧ (1 : Word) ≠ 0 ∧ s.coord.esActive = false ∧
      (∀ i, s.ovlEdge.get i = false) ∧ LinkQuiet s :=
  ⟨by decide, by decide, by decide, by decide, .inl (by decide)⟩
theorem witness_emergency_latch_again :
    let s := latched (.glob .emergencyStop) 0xFFFF stoppedByEmergency
    s.latches.emergencyStop = some 0xFFFF ∧ (0xFFFF : Word) ≠ 0 ∧ s.coord.esActive = true := by decide

/-- EmergencyLatchZeroClears: an emergency stop, a healthy link with exactly `COMM_TIMEOUT_MS` of silence. -/
theorem witness_emergency_latch_zero :
    let s : State := latched (.glob .emergencyStop) 0 { stoppedByEmergency with link := ⟨true, false, 0⟩, nowMs := 1000 }
    s.latches.emergencyStop = some 0 ∧ s.link.commFault = false ∧ LinkQuiet s :=
  ⟨by decide, by decide, .inr (.inr (by decide))⟩

/-- StartStopLatchActs, its three clauses: a start that passes; a start without enable; a stop of a Running channel. -/
theorem witness_start_latch :
    let s := latched (.chan 3 .startStop) 1 (State.reset.setReg (.glob .globalEnable) 1)
    s.latches.emergencyStop = none ∧ s.ovlEdge.get 3 = false ∧ (s.latches.channels.get 3).startStop = some 1 ∧
      s.regs.globals.globalEnable ≠ 0 ∧ s.coord.esActive = false ∧ (s.channels.get 3).state = .stopped ∧
      (s.channels.get 3).inhibit = false ∧ LinkQuiet s :=
  ⟨by decide, by decide, by decide, by decide, by decide, by decide, by decide, .inl (by decide)⟩
theorem witness_start_latch_disabled :
    let s := latched (.chan 0 .startStop) 1 State.reset
    s.latches.emergencyStop = none ∧ s.ovlEdge.get 0 = false ∧ (s.latches.channels.get 0).startStop = some 1 ∧
      s.regs.globals.globalEnable = 0 ∧ (s.channels.get 0).state = .stopped := by decide
theorem witness_stop_latch :
    let s := latched (.chan 0 .startStop) 0 allRunning
    s.latches.emergencyStop = none ∧ s.ovlEdge.get 0 = false ∧ (s.latches.channels.get 0).startStop = some 0 ∧
      (s.channels.get 0).Active := by decide

/-- CommTimeoutShutsDown: exactly the timeout, and one millisecond more. -/
theorem witness_link_quiet : LinkQuiet { State.reset with link := ⟨true, false, 0⟩, nowMs := 1000 } :=
  .inr (.inr (by decide))
theorem witness_comm_timeout :
    let s : State := { State.reset with link := ⟨true, false, 0⟩, nowMs := 1001 }
    s.link.commArmed = true ∧ s.link.commFault = false ∧
      s.params.commTimeoutMs < (s.nowMs - s.link.lastValidMs).toNat := by decide

/-- StepRunsTheDecodedOperation: an agent step in the inbox, none, and a frame that decodes. -/
theorem witness_step :
    ({ State.reset with env := { Env.reset with inbox := [.tick] } } : State).env.inbox = .tick :: [] ∧
      State.reset.env.inbox = [] ∧ (delivered goodFrame).rxq = ⟨goodFrame, 0⟩ :: [] ∧
      decode (delivered goodFrame).params.slaveAddr (.wire goodFrame) = .ok (.readHoldingRegisters 0 1) := by
  decide +kernel

/-- StoreIsWrittenOnlyByItsWriters, TransitionCountNeverDecreases, ParametersNeverChange: an operation with a next state
that is none of the exceptions. -/
theorem witness_update : ∃ t, exec .update allRunning = .next t := ⟨_, rfl⟩

/-- FaultedChannelLeavesOnlyByReset: channel 3 leaves Overload. -/
theorem witness_fault_left :
    ∃ t, exec (.unitReset 3) oneOverload = .next t ∧ (oneOverload.channels.get 3).Faulted ∧ ¬(t.channels.get 3).Faulted :=
  ⟨_, rfl, by decide, by decide⟩

/-- FaultedChannelLeavesOnlyByReset, the fault code: cleared by a block reset. -/
theorem witness_fault_code_cleared :
    ∃ t, exec .powerOn { oneOverload with coord := { oneOverload.coord with faultCode := 1 } } = .next t ∧
      (1 : Word) ≠ 0 ∧ t.coord.faultCode = 0 :=
  ⟨_, rfl, by decide, rfl⟩

/-- NoAutomaticStart: channel 3 becomes active, by a word and by a latch. -/
theorem witness_start_word :
    ∃ t, exec (.unitStart 3) State.reset = .next t ∧ ¬(State.reset.channels.get 3).Active ∧ (t.channels.get 3).Active :=
  ⟨_, rfl, by decide, by decide⟩

/-- EmergencyStopDominates: an emergency stop with a start latched, and its end. -/
theorem witness_emergency :
    (latched (.chan 0 .startStop) 1 stoppedByEmergency).coord.esActive = true ∧
      ((latched (.chan 0 .startStop) 1 stoppedByEmergency).latches.channels.get 0).startStop = some 1 ∧
      ∃ t, exec .clearEstop stoppedByEmergency = .next t ∧ t.coord.esActive = false :=
  ⟨by decide, by decide, _, rfl, by decide⟩

/-- The invariants hold of a state that is not reset. -/
theorem witness_coordInv : CoordInv allRunning :=
  ⟨witness_mask_running, by decide, by decide, by decide, by decide⟩
theorem witness_regInv : RegInv allRunning :=
  ⟨by decide, by decide, by decide,
    (fun i v h => by
      match i with
      | 0 | 1 | 2 | 3 => rcases h with h | h <;> cases h),
    by decide, by decide, by decide, by decide, by decide, by decide⟩
theorem witness_commsInv : CommsInv allRunning := ⟨by decide, fun f h => (by cases h), by decide⟩

theorem exec_of_after {i : Instr} {s : State} {p : State → Bool} (h : (after i s).map p = some true) :
    ∃ t, exec i s = .next t ∧ p t = true := by
  unfold after at h
  split at h
  · rename_i t ht
    exact ⟨t, ht, by simpa using h⟩
  · cases h
  · cases h

/-- OutputsOffInEmergencyStop: a tick that ends in an emergency stop. -/
theorem witness_outputs_off :
    CoordInv (latched (.glob .emergencyStop) 1 allRunning) ∧
      ∃ t, exec .tick (latched (.glob .emergencyStop) 1 allRunning) = .next t ∧ t.coord.esActive = true :=
  ⟨⟨maskExact_of_all (by decide), by decide, by decide, by decide, by decide⟩,
    exec_of_after (p := (·.coord.esActive)) (by decide +kernel)⟩

/-- StepKeepsCoordInv, StepKeepsRegInv, StepKeepsCommsInv: a step with a next state. -/
theorem witness_invariant_step :
    ∃ t, step ({ allRunning with env := { Env.reset with inbox := [.port 0x0600] } } : State) = .next t := ⟨_, rfl⟩

end Sys2Proof.Tests
end

section
/-! SUPPORT. Which operation a step runs (00_scope R7, 60_exceptions R386, 40_frame_codec R156): the step takes up one
agent step, a tick takes up the head frame, and a placed table word is the next agent step. Settles O48. -/

namespace Sys2Proof.Machine

/-! ### The agent step that is taken up -/

theorem nextInput_cons {s : State} {x : Input} {rest : List Input} (h : s.env.inbox = x :: rest) :
    nextInput s = (x, { s with env := { s.env with inbox := rest } }) := by
  unfold nextInput
  rw [h]

theorem nextInput_nil {s : State} (h : s.env.inbox = []) :
    nextInput s = (Config.agentStep s.env.turn, { s with env := { s.env with turn := s.env.turn + 1 } }) := by
  unfold nextInput
  rw [h]

theorem step_of_nextInput {s t : State} {x : Input} (h : nextInput s = (x, t)) : step s = exec (decodeInput x) t := by
  unfold step
  rw [h]

/-! ### The frame that a tick takes up -/

theorem BeforeFrame.params {s t : State} (h : BeforeFrame s t) : t.params = s.params := by
  unfold BeforeFrame at h
  rw [h]

theorem BeforeFrame.rxq {s t : State} (h : BeforeFrame s t) : t.rxq = s.rxq := by
  unfold BeforeFrame at h
  rw [h]

@[simp] theorem tickBeforeFrame_params (s : State) : (tickBeforeFrame s).params = s.params :=
  (tickBeforeFrame_before s).params

@[simp] theorem tickBeforeFrame_rxq (s : State) : (tickBeforeFrame s).rxq = s.rxq :=
  (tickBeforeFrame_before s).rxq

/-- A frame decodes to an operation exactly where phase E finds a request in it. -/
theorem decode_wire_eq_ok {slaveAddr : Byte} {bytes : List Byte} {i : Instr}
    (h : decode slaveAddr (.wire bytes) = .ok i) :
    ∃ req : Request, decodeFrame slaveAddr bytes = .ok req ∧ i = req.toInstr := by
  cases hf : decodeFrame slaveAddr bytes with
  | ok req =>
    have hi : req.toInstr = i := by simpa [decode, hf] using h
    exact ⟨req, rfl, hi.symm⟩
  | error d => simp [decode, hf] at h

theorem processFrame_request {s : State} {e : RxEntry} {rest : List RxEntry} {req : Request} (hq : s.rxq = e :: rest)
    (hd : decodeFrame s.params.slaveAddr e.bytes = .ok req) :
    processFrame s = runRequest req (takeFrame e rest s) := by
  unfold processFrame
  simp only [hq, hd]

/-- A tick whose head frame decodes to `i` runs `i` in phase E. -/
theorem tick_runs_decoded {s : State} {e : RxEntry} {rest : List RxEntry} {i : Instr} (hq : s.rxq = e :: rest)
    (hd : decode s.params.slaveAddr (.wire e.bytes) = .ok i) :
    ∃ t, exec i (takeFrame e rest (tickBeforeFrame s)) = .next t ∧ exec .tick s = .next (tickAfterFrame t) := by
  obtain ⟨req, hreq, rfl⟩ := decode_wire_eq_ok hd
  have phaseE : processFrame (tickBeforeFrame s) = exec req.toInstr (takeFrame e rest (tickBeforeFrame s)) := by
    rw [exec_toInstr]
    exact processFrame_request (by simpa using hq) (by simpa using hreq)
  obtain ⟨t, ht, htick⟩ := execTick_eq s
  exact ⟨t, phaseE.symm.trans ht, htick⟩

/-! ### The table word that is placed (log 7) -/

theorem withFetchWord_command (s : State) (w : Nat) :
    s.withFetchWord 16 w = { s with env := { s.env with inbox := .port (BitVec.ofNat 16 w) :: s.env.inbox } } := rfl

theorem withFetchWord_wire (s : State) {nbits : Nat} (w : Nat) (h : nbits ≠ 16) :
    s.withFetchWord nbits w =
      { s with
        rxq := ⟨tableFrame s.params.slaveAddr nbits w, s.nowMs⟩ :: s.rxq.tail
        env := { s.env with inbox := .tick :: s.env.inbox } } := by
  unfold State.withFetchWord placeTableWord tableEncoding
  rw [if_neg h]

/-- An agent step put in front of the inbox is run by the very next step, on the state it was put into. -/
theorem step_inbox_cons (s : State) (x : Input) :
    step { s with env := { s.env with inbox := x :: s.env.inbox } } = exec (decodeInput x) s :=
  step_of_nextInput (nextInput_cons rfl)

theorem step_withFetchWord_command (s : State) (w : Nat) :
    step (s.withFetchWord 16 w) = exec (decodeCommand (BitVec.ofNat 16 w)) s := by
  rw [withFetchWord_command, step_inbox_cons, decodeInput_port]

theorem step_withFetchWord_wire (s : State) {nbits : Nat} (w : Nat) (h : nbits ≠ 16) :
    step (s.withFetchWord nbits w) =
      exec .tick { s with rxq := ⟨tableFrame s.params.slaveAddr nbits w, s.nowMs⟩ :: s.rxq.tail } := by
  rw [withFetchWord_wire s w h]
  exact step_inbox_cons { s with rxq := ⟨tableFrame s.params.slaveAddr nbits w, s.nowMs⟩ :: s.rxq.tail } .tick

/-- Settles O48: what is taken up, by the inbox, by the head frame and by the placing of a table word. -/
theorem stepRunsTheDecodedOperation : Obligations.StepRunsTheDecodedOperation :=
  ⟨fun _ _ _ h => step_of_nextInput (nextInput_cons h),
    fun _ h => step_of_nextInput (nextInput_nil h),
    fun _ _ _ _ hq hd => tick_runs_decoded hq hd,
    fun s w => ⟨step_withFetchWord_command s w, fun _ h => step_withFetchWord_wire s w h⟩⟩

end Sys2Proof.Machine
end

section
/-! SUPPORT. The invariant of the channels and the coordinator (10_state R30, R33, R34, 43_coordinator R302): what it
asks of one channel, which changes of the channels keep it, and so every operation. Settles O56. -/

namespace Sys2Proof.Machine

/-! ### One channel -/

/-- What `CoordInv` asks of one channel, given `es_active`: only a Starting channel waits or is confirmed, and an
emergency stop leaves no channel active. -/
def Channel.Legal (es : Bool) (c : Channel) : Prop :=
  (c.confirmed = true ∨ c.startWait ≠ 0 → c.state = .starting) ∧ (es = true → ¬c.Active)

/-- A channel that has just entered a state neither waits nor is confirmed. -/
theorem Channel.legal_entered {es : Bool} (c : Channel) {n : ChannelState}
    (h : es = true → n ≠ .starting ∧ n ≠ .running) : (c.entered n).Legal es :=
  ⟨by simp [Channel.entered], by simpa [Channel.entered] using h⟩

theorem Channel.Legal.started {c : Channel} (h : c.Legal false) : c.started.Legal false := by
  unfold Channel.started
  split
  · exact c.legal_entered (by simp)
  · exact h

theorem Channel.Legal.stopRequested {es : Bool} {c : Channel} (h : c.Legal es) : c.stopRequested.Legal es := by
  unfold Channel.stopRequested
  split
  · exact c.legal_entered (by simp)
  · exact h

theorem Channel.Legal.cleared {es : Bool} {c : Channel} (h : c.Legal es) : c.cleared.Legal es := by
  unfold Channel.cleared
  split
  · exact c.legal_entered (by simp)
  · exact h

/-- A forced stop makes a channel legal in an emergency stop (42_channel_fsm R238). -/
theorem Channel.Legal.forceStopped {es : Bool} {c : Channel} (h : c.Legal es) : c.forceStopped.Legal true := by
  unfold Channel.forceStopped
  split
  · exact c.legal_entered (by simp)
  · next ha => exact ⟨h.1, fun _ hc => ha ((isActive_iff _).mpr hc)⟩

/-- Only a Starting channel can become Running, and none is Starting in an emergency stop (42_channel_fsm R236). -/
theorem Channel.Legal.updated {es : Bool} {c : Channel} (h : c.Legal es) (n : Nat) : (c.updated n).Legal es := by
  obtain ⟨hw, ha⟩ := h
  unfold Channel.updated
  split
  · next hs =>
    have hes : es ≠ true := fun he => ha he (.inl hs)
    split
    · exact c.legal_entered fun he => absurd he hes
    · next hc =>
      split
      · exact ⟨by simp_all, fun he => absurd he hes⟩
      · exact ⟨fun _ => hs, fun he => absurd he hes⟩
  · next hs => exact ⟨fun k => absurd (hw k) (by simp [hs]), by simp [Channel.withState]⟩
  · exact ⟨hw, ha⟩

/-! ### The invariant by its channels -/

theorem Quad.forall_get_set {α : Type} {p : α → Prop} {q : Quad α} (h : ∀ i, p (q.get i)) {a : α} (ha : p a)
    (i j : Chan) : p ((q.set i a).get j) := by
  rw [Quad.get_set]
  split
  · exact ha
  · exact h j

theorem CoordInv.legal {s : State} (h : CoordInv s) (i : Chan) : (s.channels.get i).Legal s.coord.esActive := by
  refine ⟨h.waits i, fun he hc => ?_⟩
  have hbit := (h.mask i).mpr hc
  rw [(h.quiet he).1] at hbit
  simp [maskBit] at hbit

theorem activeSet_eq_zero {q : Quad Channel} (h : ∀ i, ¬(q.get i).Active) : activeSet q = 0 := by
  rw [activeSet, maskOfQuad_eq_zero]
  intro i
  simpa using h i

/-- The invariant from an exact mask and legal channels. -/
theorem coordInv_of_legal {s : State} (mask : s.coord.activeMask = activeSet s.channels)
    (legal : ∀ i, (s.channels.get i).Legal s.coord.esActive)
    (master : s.coord.esActive = true → s.coord.masterState = .emergencyStop)
    (fault : s.link.commFault = true → s.link.commArmed = true ∧ s.coord.esActive = true)
    (code : s.coord.faultCode.toNat ≤ 5) : CoordInv s where
  mask i := by rw [mask, maskBit_activeSet]
  quiet he := ⟨by rw [mask, activeSet_eq_zero fun i => (legal i).2 he], master he⟩
  fault := fault
  waits i := (legal i).1
  code := code

/-- The invariant speaks of the channels, the coordinator and the link only. -/
theorem CoordInv.congr {s t : State} (h : CoordInv s) (hch : t.channels = s.channels) (hco : t.coord = s.coord)
    (hl : t.link = s.link) : CoordInv t where
  mask := by unfold MaskExact; rw [hch, hco]; exact h.mask
  quiet := by rw [hco]; exact h.quiet
  fault := by rw [hco, hl]; exact h.fault
  waits := by rw [hch]; exact h.waits
  code := by rw [hco]; exact h.code

/-- A change to legal channels keeps the invariant, with the master state that an emergency stop asks for. -/
theorem CoordInv.transitioned {s : State} (h : CoordInv s) {q : Quad Channel} {m : MasterState} {v : Word}
    (hq : ∀ i, (q.get i).Legal s.coord.esActive) (hm : s.coord.esActive = true → m = .emergencyStop)
    (hv : v.toNat ≤ 5) : CoordInv ((s.transitioned q m).setFaultCode v) :=
  coordInv_of_legal rfl hq hm h.fault hv

/-- A counted move to legal channels, with the mask recomputed. -/
theorem CoordInv.recompute {s t : State} {q : Quad Channel} (h : CoordInv s) (k : Moved s q t)
    (hq : ∀ i, (q.get i).Legal s.coord.esActive) (hv : t.coord.faultCode.toNat ≤ 5) :
    CoordInv (recomputeActive t) := by
  rw [k.recompute]
  exact h.transitioned hq (fun he => (h.quiet he).2) hv

/-- One channel changed without a change of its state: nothing to count, and the mask stays exact. -/
theorem CoordInv.setChannel {s : State} (h : CoordInv s) {i : Chan} {c : Channel}
    (hs : c.state = (s.channels.get i).state) (hc : c.Legal s.coord.esActive) : CoordInv (s.setChannel i c) := by
  refine coordInv_of_legal ?_ (Quad.forall_get_set h.legal hc i) (fun he => (h.quiet he).2) h.fault h.code
  have hact : ∀ j, ((s.channels.set i c).get j).Active ↔ (s.channels.get j).Active := fun j => by
    by_cases hj : j = i
    · subst hj
      simp [Channel.Active, hs]
    · simp [Quad.get_set, hj]
  rw [State.setChannel_coord, State.setChannel_channels, h.mask.eq]
  simp only [activeSet, hact]

/-! ### The shared operations -/

/-- The safety shutdown brings the invariant about: it needs legal channels and, for a latched communication fault, an
armed link (44_safety_supervisor R351). -/
theorem coordInv_shutdown {s : State} (hq : ∀ i, (s.channels.get i).Legal s.coord.esActive)
    (hl : s.link.commFault = true → s.link.commArmed = true) {code : Word} (hv : code.toNat ≤ 5) :
    CoordInv (s.shutdown code) := by
  refine coordInv_of_legal rfl (fun i => ?_) (fun _ => rfl) (fun hf => ⟨hl hf, rfl⟩) hv
  show ((shutDown s.channels).get i).Legal true
  rw [← forceStopped_eq, Quad.get_ofFn]
  exact (hq i).forceStopped

theorem CoordInv.shutdown {s : State} (h : CoordInv s) {code : Word} (hv : code.toNat ≤ 5) :
    CoordInv (s.shutdown code) :=
  coordInv_shutdown h.legal (fun hf => (h.fault hf).1) hv

theorem CoordInv.faultEntry {s : State} (h : CoordInv s) (i : Chan) (ov : Bool) : CoordInv (faultEntry i ov s) := by
  rw [faultEntry_eq]
  refine CoordInv.congr (h.transitioned (v := if ov then 1 else 2) (Quad.forall_get_set h.legal ?_ i)
    (fun he => (h.quiet he).2) ?_) rfl rfl rfl
  · exact (s.channels.get i).legal_entered fun _ => by cases ov <;> simp
  · cases ov <;> decide

theorem CoordInv.faultReturn {s : State} (h : CoordInv s) (i : Chan) : CoordInv (faultReturn i s).1 := by
  rw [faultReturn_eq]
  exact h.transitioned (Quad.forall_get_set h.legal (h.legal i).cleared i) (fun he => (h.quiet he).2) h.code

theorem setMaster_coord (m : MasterState) (s : State) :
    (setMaster m s).coord.activeMask = s.coord.activeMask ∧ (setMaster m s).coord.faultCode = s.coord.faultCode ∧
      (setMaster m s).coord.masterState = m := by
  unfold setMaster
  split
  · next hm => exact ⟨rfl, rfl, hm⟩
  · exact ⟨rfl, rfl, rfl⟩

theorem setMaster_link (m : MasterState) (s : State) : (setMaster m s).link = s.link := by
  rw [setMaster_ctrl m s]

/-- A healthy link lets the emergency stop end; a latched communication fault does not (43_coordinator R294). -/
theorem CoordInv.clearEmergencyStop {s : State} (h : CoordInv s) : CoordInv (clearEmergencyStop s).1 := by
  rw [clearEmergencyStop_eq]
  split
  · exact h
  · next hc =>
    obtain ⟨_, hlink⟩ := not_or.mp hc
    let u := setMaster (masterFor false s.channels) (setEsActive false s)
    obtain ⟨hmask, hcode, _⟩ := setMaster_coord (masterFor false s.channels) (setEsActive false s)
    have hes : u.coord.esActive = false := setMaster_esActive ..
    have hch : u.channels = s.channels := setMaster_channels ..
    have hl : u.link = s.link := setMaster_link ..
    have hu : CoordInv u := by
      refine coordInv_of_legal ?_ (fun i => ?_) (by simp [hes]) (fun hf => absurd (hl ▸ hf) hlink) ?_
      · rw [hmask, hch]
        exact h.mask.eq
      · rw [hch, hes]
        exact ⟨h.waits i, by simp⟩
      · rw [hcode]
        exact h.code
    exact hu.congr rfl rfl rfl

theorem CoordInv.requestUnitStart {s : State} (h : CoordInv s) (i : Chan) : CoordInv (requestUnitStart i s).1 := by
  unfold Sys2Proof.Machine.requestUnitStart
  split
  · exact h
  · next he =>
    have hes : s.coord.esActive = false := by simpa using he
    refine h.recompute (chStart_moved i s) (Quad.forall_get_set h.legal ?_ i) (by rw [chStart_code]; exact h.code)
    rw [hes]
    exact (hes ▸ h.legal i).started

theorem CoordInv.requestUnitStop {s : State} (h : CoordInv s) (i : Chan) : CoordInv (requestUnitStop i s).1 :=
  h.recompute (chStop_moved i s) (Quad.forall_get_set h.legal (h.legal i).stopRequested i)
    (by rw [chStop_code]; exact h.code)

/-- A pass over the channels of a mask leaves `fault_code` as its step does. -/
theorem forChannels_if_code {f : Chan → State → State} (m : BitVec 4)
    (h : ∀ i s, (f i s).coord.faultCode = s.coord.faultCode) (s : State) :
    (forChannels (fun i u => if maskBit m i = true then f i u else u) s).coord.faultCode = s.coord.faultCode :=
  forChannels_code (fun i u => by split <;> simp only [h]) s

theorem CoordInv.requestCoordinatedStart {s : State} (h : CoordInv s) (m : BitVec 4) :
    CoordInv (requestCoordinatedStart m s).1 := by
  unfold Sys2Proof.Machine.requestCoordinatedStart
  split
  · exact h
  · next hn =>
    have hes : s.coord.esActive = false := by simpa using (not_or.mp hn).2
    have hmoved := forChannels_if_moved (g := fun _ _ c => c.started) m chStart_moved s
    have hcode := forChannels_if_code m chStart_code s
    dsimp only
    rw [setMaster_recompute, hmoved.settle]
    refine h.transitioned (fun i => ?_) (by simp [hes]) (by rw [hcode]; exact h.code)
    rw [Quad.get_ofFn]
    split
    · rw [hes]
      exact (hes ▸ h.legal i).started
    · exact h.legal i

theorem CoordInv.requestCoordinatedStop {s : State} (h : CoordInv s) (m : BitVec 4) :
    CoordInv (requestCoordinatedStop m s).1 := by
  refine h.recompute (forChannels_if_moved (g := fun _ _ c => c.stopRequested) _ chStop_moved s) (fun i => ?_)
    (by rw [forChannels_if_code _ chStop_code]; exact h.code)
  rw [Quad.get_ofFn]
  split
  · exact (h.legal i).stopRequested
  · exact h.legal i

theorem CoordInv.chConfirm {s : State} (h : CoordInv s) (i : Chan) : CoordInv (chConfirm i s).1 := by
  unfold Sys2Proof.Machine.chConfirm
  split
  · next hs => exact h.setChannel rfl ⟨fun _ => hs, (h.legal i).2⟩
  · exact h

theorem CoordInv.chSetInhibit {s : State} (h : CoordInv s) (i : Chan) (b : Bool) :
    CoordInv (chSetInhibit i b s).1 :=
  h.setChannel rfl (h.legal i)

/-- What every step of a pass keeps, the pass keeps. -/
theorem forChannels_keeps {p : State → Prop} {f : Chan → State → State} (h : ∀ i s, p s → p (f i s)) {s : State}
    (hs : p s) : p (forChannels f s) :=
  h 3 _ (h 2 _ (h 1 _ (h 0 _ hs)))

/-- `update()` writes no fault code but 3 (42_channel_fsm R236). -/
theorem chUpdate_code_le {s : State} (h : s.coord.faultCode.toNat ≤ 5) (i : Chan) :
    (chUpdate i s).coord.faultCode.toNat ≤ 5 := by
  rw [chUpdate_code]
  split
  · decide
  · exact h

theorem CoordInv.updateAll {s : State} (h : CoordInv s) : CoordInv (updateAll s) := by
  rw [updateAll_eq]
  refine h.transitioned (fun i => ?_) (fun he => if_pos he) ?_
  · rw [Quad.get_ofFn]
    exact (h.legal i).updated _
  · exact forChannels_keeps (p := fun u => u.coord.faultCode.toNat ≤ 5) (fun i _ hu => chUpdate_code_le hu i) h.code

/-! ### Resets -/

theorem resetWith_channels (p : Params) (i : Chan) : (State.resetWith p).channels.get i = Channel.reset := by
  match i with
  | 0 | 1 | 2 | 3 => rfl

theorem coordInv_resetWith (p : Params) : CoordInv (State.resetWith p) := by
  refine coordInv_of_legal (activeSet_eq_zero fun i => ?_).symm (fun i => ?_) (fun he => nomatch he)
    (fun hf => nomatch hf) (Nat.zero_le _)
  · rw [resetWith_channels]
    decide
  · rw [resetWith_channels]
    exact ⟨by decide, fun _ => by decide⟩

theorem coordInv_coldReset (s : State) : CoordInv (coldReset s) := (coordInv_resetWith s.params).congr rfl rfl rfl

theorem coordInv_watchdogReset (s : State) : CoordInv (watchdogReset s) :=
  (coordInv_resetWith s.params).congr rfl rfl rfl

/-! ### The phases of a tick -/

theorem CoordInv.consumeEmergencyStop {s : State} (h : CoordInv s) : CoordInv (consumeEmergencyStop s) := by
  unfold Sys2Proof.Machine.consumeEmergencyStop
  split
  · exact h
  · dsimp only
    split
    · rw [emergencyStop_shutdown]
      exact (h.shutdown (code := 5) (by decide)).congr rfl rfl rfl
    · exact h.clearEmergencyStop.congr rfl rfl rfl

theorem CoordInv.consumeSystemReset {s : State} (h : CoordInv s) : CoordInv (consumeSystemReset s) := by
  obtain ⟨hch, hco⟩ := consumeSystemReset_ctrl s
  exact h.congr hch hco (by rw [consumeSystemReset_before s])

theorem CoordInv.consumeOverloadReset {s : State} (h : CoordInv s) (i : Chan) : CoordInv (consumeOverloadReset i s) := by
  unfold Sys2Proof.Machine.consumeOverloadReset
  split
  · exact h
  · dsimp only
    split
    · exact (h.faultReturn i).congr rfl rfl rfl
    · exact h.congr rfl rfl rfl

theorem CoordInv.consumeStartStop {s : State} (h : CoordInv s) (i : Chan) : CoordInv (consumeStartStop i s) := by
  unfold Sys2Proof.Machine.consumeStartStop
  split
  · exact h
  · dsimp only
    split
    · split
      · exact (h.requestUnitStart i).congr rfl rfl rfl
      · exact h.congr rfl rfl rfl
    · split
      · exact (h.requestUnitStop i).congr rfl rfl rfl
      · exact h.congr rfl rfl rfl

theorem CoordInv.consumeEdge {s : State} (h : CoordInv s) (i : Chan) : CoordInv (consumeEdge i s) := by
  unfold Sys2Proof.Machine.consumeEdge
  split
  · exact (h.congr (t := { s with ovlEdge := s.ovlEdge.set i false }) rfl rfl rfl).faultEntry i true
  · exact h

/-- Phases A to C of a tick, before the status registers are reflected (70_reset_and_hazards R430). -/
def tickBeforeReflect (s : State) : State := updateAll (forChannels consumeEdge (consumeLatches s))

theorem tickBeforeFrame_eq (s : State) : tickBeforeFrame s = reflect (tickBeforeReflect s) := rfl

theorem CoordInv.tickBeforeReflect {s : State} (h : CoordInv s) : CoordInv (tickBeforeReflect s) := by
  have hA : CoordInv (consumeLatches s) := by
    rw [consumeLatches_eq]
    exact forChannels_keeps (p := CoordInv) (f := latchStep)
      (fun i _ hu => (hu.consumeOverloadReset i).consumeStartStop i) h.consumeEmergencyStop.consumeSystemReset
  have hB : CoordInv (forChannels Machine.consumeEdge (consumeLatches s)) :=
    forChannels_keeps (p := CoordInv) (fun i _ hu => hu.consumeEdge i) hA
  exact hB.updateAll

theorem CoordInv.reflect {s : State} (h : CoordInv s) : CoordInv (reflect s) := h.congr rfl rfl rfl

theorem CoordInv.tickBeforeFrame {s : State} (h : CoordInv s) : CoordInv (tickBeforeFrame s) := by
  rw [tickBeforeFrame_eq]
  exact h.tickBeforeReflect.reflect

/-- A response clears the communication fault; nothing else of phase E reaches what the invariant speaks of. -/
theorem CoordInv.processFrame {s t : State} (h : CoordInv s) (ht : processFrame s = .next t) : CoordInv t := by
  have hf := processFrame_frame ht
  have hch : t.channels = s.channels := by rw [hf]
  have hco : t.coord = s.coord := by rw [hf]
  rcases processFrame_link ht with hl | hl
  · exact h.congr hch hco hl
  · exact { h.congr (t := { t with link := s.link }) hch hco rfl with fault := by simp [hl] }

theorem CoordInv.tickAfterFrame {s : State} (h : CoordInv s) : CoordInv (tickAfterFrame s) := by
  have hF : CoordInv (commTimeoutCheck s) := by
    rcases commTimeoutCheck_cases s with e | ⟨harmed, _, _, e⟩
    · rw [e]
      exact h
    · rw [e]
      refine CoordInv.congr (coordInv_shutdown (code := 4) ?_ ?_ (by decide)) rfl rfl rfl
      · exact h.legal
      · exact fun _ => harmed
  exact hF.congr rfl rfl rfl

/-! ### Every operation -/

theorem CoordInv.answered {r : State × Bool} (h : CoordInv r.1) : CoordInv (answered r) := h.congr rfl rfl rfl

theorem CoordInv.onChannel {n : Nat} (idx : BitVec n) {f : Chan → State → State × Bool} {s : State}
    (h : CoordInv s) (hf : ∀ i, CoordInv (f i s).1) : CoordInv (Machine.answered (onChannel idx f s)) := by
  unfold Sys2Proof.Machine.onChannel
  split
  · exact (hf _).answered
  · exact h.answered

/-- A response clears the communication fault and changes no channel and no coordinator state. -/
theorem CoordInv.of_answered {s t : State} (h : CoordInv s) (ha : Answered s t) : CoordInv t := by
  have hl : t.link = ⟨true, false, s.nowMs⟩ := by
    rcases ha with ⟨ws, p, _, rfl⟩ | ⟨fc, code, _, rfl⟩ <;> rfl
  exact { h.congr (t := { t with link := s.link }) ha.channels ha.coord rfl with fault := by simp [hl] }

theorem exec_keeps_coordInv {i : Instr} {s t : State} (h : CoordInv s) (ht : exec i s = .next t) : CoordInv t := by
  cases i with
  | readHoldingRegisters a q => exact h.of_answered (exec_wire_answered rfl ht)
  | writeSingleRegister a v => exact h.of_answered (exec_wire_answered rfl ht)
  | writeMultipleRegisters a q b d => exact h.of_answered (exec_wire_answered rfl ht)
  | illegalFunction f => exact h.of_answered (exec_wire_answered rfl ht)
  | tick =>
    obtain ⟨e, he, rfl⟩ := tick_phases ht
    exact (h.tickBeforeFrame.processFrame he).tickAfterFrame
  | frame b =>
    simp only [exec, execFrame] at ht
    split at ht <;> cases ht <;> exact h.congr rfl rfl rfl
  | wdtExpire =>
    simp only [exec, execWdtExpire] at ht
    split at ht <;> cases ht
    · exact coordInv_watchdogReset _
    · exact h
  | coordStart m =>
    obtain rfl := Host.Outcome.next.inj ht
    exact (h.requestCoordinatedStart m).answered
  | coordStop m =>
    obtain rfl := Host.Outcome.next.inj ht
    exact (h.requestCoordinatedStop m).answered
  | unitStart idx =>
    obtain rfl := Host.Outcome.next.inj ht
    exact h.onChannel idx h.requestUnitStart
  | unitStop idx =>
    obtain rfl := Host.Outcome.next.inj ht
    exact h.onChannel idx h.requestUnitStop
  | reportFault ov idx =>
    obtain rfl := Host.Outcome.next.inj ht
    exact h.onChannel idx fun c => h.faultEntry c ov
  | emergencyStop =>
    obtain rfl := Host.Outcome.next.inj ht
    rw [emergencyStop_shutdown]
    exact CoordInv.answered (r := (_, true)) (h.shutdown (by decide))
  | clearEstop =>
    obtain rfl := Host.Outcome.next.inj ht
    exact h.clearEmergencyStop.answered
  | unitReset idx =>
    obtain rfl := Host.Outcome.next.inj ht
    exact h.onChannel idx h.faultReturn
  | setInhibit b idx =>
    obtain rfl := Host.Outcome.next.inj ht
    exact h.onChannel idx fun c => h.chSetInhibit c b
  | confirmStart idx =>
    obtain rfl := Host.Outcome.next.inj ht
    exact h.onChannel idx h.chConfirm
  | update =>
    obtain rfl := Host.Outcome.next.inj ht
    exact CoordInv.answered (r := (_, true)) h.updateAll
  | powerOn =>
    obtain rfl := Host.Outcome.next.inj ht
    exact coordInv_coldReset s
  | reservedCommand | txDone | advance | overloadEdge =>
    cases ht
    exact h.congr rfl rfl rfl

/-- Settles O56: a step runs one operation, on a state that differs in the model's own fields only. -/
theorem stepKeepsCoordInv : Obligations.StepKeepsCoordInv := by
  intro s t h ht
  obtain ⟨i, inbox, turn, he⟩ := step_eq s
  rw [he] at ht
  refine exec_keeps_coordInv ?_ ht
  exact h.congr rfl rfl rfl

end Sys2Proof.Machine
end

section
/-! SUPPORT. The writers of the register store and the latches (10_state R20, R24, 41_register_access R185, R188).
Settles O9 and O49. -/

namespace Sys2Proof.Machine

/-- Settles O9: the read-after-write laws of the store and of the latches. -/
theorem storeReadAfterWrite : Obligations.StoreReadAfterWrite :=
  ⟨RegStore.get_set, Latches.get_set, fun l _ h => l.get_of_no_latch h⟩

/-! ### What a reply leaves in the store -/

theorem conv_of_roDiag {r : Reg} (h : r.cls = .roDiag) (v : Word) : conv r v = .ignored := by
  unfold conv
  rw [h]

/-- Accepted writes change no read-only register, because none is named, and no previous-state register, because such a
write stores nothing (41_register_access R186, R188). -/
theorem applyWrites_readOnly {ws : List (Reg × Word)} (hw : ∀ w ∈ ws, w.1.cls ≠ .ro) {r : Reg}
    (hr : r.cls = .ro ∨ r.cls = .roDiag) (s : State) : (applyWrites ws s).regs.get r = s.regs.get r := by
  refine (applyWrites_other (fun w hmem hwr => ?_) s).1
  rcases hr with hro | hdiag
  · exact absurd (hwr ▸ hro) (hw w hmem)
  · rw [conv_of_roDiag (hwr ▸ hdiag)]
    rfl

theorem Answered.readOnly {s t : State} (h : Answered s t) {r : Reg} (hr : r.cls = .ro ∨ r.cls = .roDiag) :
    t.regs.get r = s.regs.get r := by
  rcases h with ⟨ws, p, hw, rfl⟩ | ⟨fc, code, _, rfl⟩
  · exact applyWrites_readOnly (fun w hmem => (hw w hmem).1) hr (countRequest s)
  · rfl

/-- An operation leaves the store and the latches as they were. -/
def StoreKept (s t : State) : Prop := t.regs = s.regs ∧ t.latches = s.latches

theorem SnapFrame.storeKept {s t : State} (h : SnapFrame s t) : StoreKept s t := by
  unfold SnapFrame at h
  rw [h]
  exact ⟨rfl, rfl⟩

theorem takeException_storeKept (fc : Byte) (code : ExcCode) (s : State) :
    StoreKept s (takeException fc code (countRequest s)) := by
  rw [takeException_rejected]
  exact ⟨rfl, rfl⟩

/-- A read that is answered hands back the state it was given (41_register_access R185). -/
theorem readRegs_ok_state {start qty : Word} {s t : State} {p : List Byte} (h : readRegs start qty s = .ok p t) :
    t = s := by
  unfold readRegs at h
  split at h
  · cases h
  · split at h
    · cases h
    · split at h <;> cases h
      rfl

theorem execReadHoldingRegisters_storeKept {start qty : Word} {s t : State}
    (h : execReadHoldingRegisters start qty s = .next t) : StoreKept s t := by
  unfold execReadHoldingRegisters at h
  cases hr : readRegs start qty (countRequest s) with
  | ok p u =>
    rw [hr, readRegs_ok_state hr] at h
    cases h
    exact ⟨rfl, rfl⟩
  | exc code =>
    rw [hr] at h
    cases h
    exact takeException_storeKept ..
  | inconsistent =>
    rw [hr] at h
    cases h

/-- Apart from the wire requests, the tick and the two resets, no operation reaches the store or a latch. -/
theorem exec_storeKept {i : Instr} {s t : State} (h : exec i s = .next t) (hw : isWire i = false) (htick : i ≠ .tick)
    (hwdt : i ≠ .wdtExpire) (hon : i ≠ .powerOn) : StoreKept s t := by
  rcases exec_cases h with
    ⟨hi, _⟩ | hf | rfl | rfl | ⟨rfl, _⟩ | ⟨b, rfl⟩ | rfl | ⟨d, rfl⟩ | ⟨c, rfl⟩
  · exact absurd hi (by simp [hw])
  · exact hf.storeKept
  · exact absurd rfl htick
  · exact absurd rfl hon
  · exact absurd rfl hwdt
  · simp only [exec, execFrame] at h
    split at h <;> cases h <;> exact ⟨rfl, rfl⟩
  all_goals cases h; exact ⟨rfl, rfl⟩

/-- Settles O49: a wire request is answered, and an answer writes no read-only register; the other operations keep the
store. -/
theorem storeIsWrittenOnlyByItsWriters : Obligations.StoreIsWrittenOnlyByItsWriters := by
  intro i s t h
  refine ⟨fun htick hwdt hon r hr => ?_, fun htick hwdt hon hone hmany => ?_⟩
  · cases hw : isWire i
    · rw [(exec_storeKept h hw htick hwdt hon).1]
    · exact (exec_wire_answered hw h).readOnly hr
  · cases i with
    | readHoldingRegisters a q => exact execReadHoldingRegisters_storeKept h
    | illegalFunction fc =>
      obtain rfl := Host.Outcome.next.inj h
      exact takeException_storeKept ..
    | writeSingleRegister a v => exact absurd rfl (hone a v)
    | writeMultipleRegisters a q b d => exact absurd rfl (hmany a q b d)
    | _ => exact exec_storeKept h rfl htick hwdt hon

end Sys2Proof.Machine
end

section
/-! SUPPORT. What phases A to C of a tick are made of, said once for every property that does not speak of the channels,
the coordinator or the snapshot. -/

namespace Sys2Proof.Machine

/-- A property kept by every kind of write that phases A to C make: the channels, the coordinator, the snapshot and the
log; a latch cleared; a pulse register set to 0; the statistics reset; an edge consumed. -/
structure TickClosed (p : State → Prop) : Prop where
  ctrl : ∀ {s t : State}, SnapFrame s t → p s → p t
  latch : ∀ {s : State} (r : Reg), p s → p (s.setLatch r none)
  pulse : ∀ {s : State} {r : Reg}, r = .glob .systemReset ∨ (∃ i, r = .chan i .overloadReset) → p s → p (s.setReg r 0)
  stats : ∀ {s : State}, p s → p { s with stats := .reset, wdt := { s.wdt with flag := false } }
  edges : ∀ {s : State} (q : Quad Bool), p s → p { s with ovlEdge := q }

section
variable {p : State → Prop} {s : State}

theorem TickClosed.reported (c : TickClosed p) {op : RequestOp} {i : Option Chan} {r : State × Bool}
    (h : SnapFrame s r.1) (hs : p s) : p (reported op i r) :=
  c.ctrl (h.trans (emit_ctrl _ _).toSnap) hs

theorem TickClosed.consumeEmergencyStop (c : TickClosed p) (hs : p s) : p (consumeEmergencyStop s) := by
  unfold Sys2Proof.Machine.consumeEmergencyStop
  split
  · exact hs
  · dsimp only
    split
    · rw [emergencyStop_shutdown]
      exact c.latch _ (c.reported (shutdown_log s 5).toSnap hs)
    · exact c.latch _ (c.reported (clearEmergencyStop_log s).toSnap hs)

theorem TickClosed.consumeSystemReset (c : TickClosed p) (hs : p s) : p (consumeSystemReset s) := by
  unfold Sys2Proof.Machine.consumeSystemReset
  split
  · exact hs
  · dsimp only
    split
    · exact c.latch _ (c.pulse (.inl rfl) (c.stats hs))
    · exact c.latch _ hs

theorem TickClosed.consumeOverloadReset (c : TickClosed p) (i : Chan) (hs : p s) : p (consumeOverloadReset i s) := by
  unfold Sys2Proof.Machine.consumeOverloadReset
  split
  · exact hs
  · dsimp only
    split
    · exact c.latch _ (c.pulse (.inr ⟨i, rfl⟩) (c.reported (faultReturn_log i s).toSnap hs))
    · exact c.latch _ hs

theorem TickClosed.consumeStartStop (c : TickClosed p) (i : Chan) (hs : p s) : p (consumeStartStop i s) := by
  unfold Sys2Proof.Machine.consumeStartStop
  split
  · exact hs
  · refine c.latch _ ?_
    split
    · split
      · exact c.reported (requestUnitStart_log i s).toSnap hs
      · exact c.reported (CtrlFrame.refl s).toSnap hs
    · split
      · exact c.reported (requestUnitStop_log i s).toSnap hs
      · exact hs

theorem TickClosed.consumeEdge (c : TickClosed p) (i : Chan) (hs : p s) : p (consumeEdge i s) := by
  unfold Sys2Proof.Machine.consumeEdge
  split
  · exact c.ctrl (faultEntry_log i true _).toSnap (c.edges _ hs)
  · exact hs

theorem TickClosed.tickBeforeReflect (c : TickClosed p) (hs : p s) : p (tickBeforeReflect s) := by
  have hA : p (consumeLatches s) := by
    rw [consumeLatches_eq]
    exact forChannels_keeps (p := p) (f := latchStep)
      (fun i _ hu => c.consumeStartStop i (c.consumeOverloadReset i hu))
      (c.consumeSystemReset (c.consumeEmergencyStop hs))
  have hB : p (forChannels Machine.consumeEdge (consumeLatches s)) :=
    forChannels_keeps (p := p) (fun i _ hu => c.consumeEdge i hu) hA
  exact c.ctrl (updateAll_log _).toSnap hB

end

end Sys2Proof.Machine
end

section
/-! SUPPORT. The invariant of the register store and the latches (10_state R21 to R29, R31, R33) as one range per
register: a write converts into the range (41_register_access R187), phase D reflects into it (70_reset_and_hazards R433). Settles
O57. -/

namespace Sys2Proof.Machine

/-! ### The range of a register -/

/-- The values a register holds: its class for a writable one (10_state R21, R26), its codes and reserved bits for a
status register (R22, R23, R28, R29, R31, R33). -/
def Reg.Range : Reg → Word → Prop
  | .sys .sysStatus, v => v.toNat < 16
  | .sys .activeMask, v => v.toNat ≤ 15
  | .sys .masterState, v => v.toNat ≤ 3
  | .sys .faultCode, v => v.toNat ≤ 5
  | .chan _ .startStop, v => v.toNat ≤ 1
  | .chan _ .amplitudeSetpoint, v => 20 ≤ v.toNat ∧ v.toNat ≤ 100
  | .chan _ .overloadReset, v => v.toNat ≤ 1
  | .chan _ .statusFlags, v => v.toNat < 256
  | .chan _ .prevState, v => v.toNat ≤ 5 ∨ v = 0xFFFF
  | _, _ => True

theorem clamp_amp_range (v : Word) :
    20 ≤ (clamp v Config.ampMin Config.ampMax).toNat ∧ (clamp v Config.ampMin Config.ampMax).toNat ≤ 100 := by
  unfold clamp Config.ampMin Config.ampMax
  by_cases hlo : v.toNat < 20
  · simp [hlo]
  · by_cases hhi : 100 < v.toNat
    · simp [hlo, hhi]
    · simp only [Nat.not_lt] at hlo hhi
      simp [Nat.not_lt.mpr hlo, Nat.not_lt.mpr hhi, hlo, hhi]

/-- A boolean register takes 0 or 1 only. -/
theorem conv_bool_range {r : Reg} {v w : Word} (hr : r.cls = .rwBool) (h : conv r v = .store w) : w.toNat ≤ 1 := by
  unfold conv at h
  rw [hr] at h
  dsimp only at h
  split at h <;> cases h
  next hv => rcases hv with rfl | rfl <;> decide

/-- What a write stores lies in the range of its register (41_register_access R187). -/
theorem range_of_conv_store {r : Reg} {v w : Word} (h : conv r v = .store w) : r.Range w := by
  rcases r with r | r | ⟨i, r⟩
  · cases h
  · trivial
  · cases r
    case startStop => exact conv_bool_range (r := .chan i .startStop) rfl h
    case overloadReset => exact conv_bool_range (r := .chan i .overloadReset) rfl h
    case amplitudeSetpoint =>
      cases h
      exact clamp_amp_range v
    all_goals cases h

/-! ### The store and the latches -/

/-- `RegInv` in terms of named registers. -/
structure StoreInv (t : RegStore) (l : Latches) : Prop where
  range : ∀ r : Reg, r.Range (t.get r)
  latched : ∀ (r : Reg) (v : Word), l.get r = some v → r.Range v
  count : (t.get (.sys .activeCount)).toNat = countChannels fun i => (t.get (.sys .activeMask)).getLsbD i.val

theorem regInv_iff (s : State) : RegInv s ↔ StoreInv s.regs s.latches := by
  constructor
  · intro h
    refine ⟨fun r => ?_, fun r v hv => ?_, h.count.2⟩
    · rcases r with r | r | ⟨i, r⟩
      · cases r
        case sysStatus => exact h.sysReserved
        case activeMask => exact h.count.1
        case masterState => exact h.masterCode
        case faultCode => exact h.faultCode
        all_goals trivial
      · trivial
      · cases r
        case startStop => exact h.startStop i
        case amplitudeSetpoint => exact h.setpoint i
        case overloadReset => exact h.overloadReset i
        case statusFlags => exact h.flagsReserved i
        case prevState => exact h.prevState i
        all_goals trivial
    · rcases r with r | r | ⟨i, r⟩
      · cases hv
      · trivial
      · cases r
        case startStop => exact h.latched i v (.inl hv)
        case overloadReset => exact h.latched i v (.inr hv)
        all_goals cases hv
  · intro h
    exact
      { setpoint := fun i => h.range (.chan i .amplitudeSetpoint)
        startStop := fun i => h.range (.chan i .startStop)
        overloadReset := fun i => h.range (.chan i .overloadReset)
        latched := fun i v hv =>
          hv.elim (h.latched (.chan i .startStop) v) (h.latched (.chan i .overloadReset) v)
        count := ⟨h.range (.sys .activeMask), h.count⟩
        sysReserved := h.range (.sys .sysStatus)
        flagsReserved := fun i => h.range (.chan i .statusFlags)
        masterCode := h.range (.sys .masterState)
        faultCode := h.range (.sys .faultCode)
        prevState := fun i => h.range (.chan i .prevState) }

theorem StoreInv.setLatch {t : RegStore} {l : Latches} (h : StoreInv t l) {r : Reg} {o : Option Word}
    (ho : ∀ v, o = some v → r.Range v) : StoreInv t (l.set r o) where
  range := h.range
  latched q v hv := by
    rw [Latches.get_set] at hv
    split at hv
    · next hq =>
      rw [hq.1]
      exact ho v hv
    · exact h.latched q v hv
  count := h.count

/-- A writable register set within its range: the active mask and its count are read-only, so they still agree. -/
theorem StoreInv.set {t : RegStore} {l : Latches} (h : StoreInv t l) {r : Reg} {v : Word} (hr : r.cls ≠ .ro)
    (hv : r.Range v) : StoreInv (t.set r v) l where
  range q := by
    rw [RegStore.get_set]
    split
    · next hq =>
      rw [hq]
      exact hv
    · exact h.range q
  latched := h.latched
  count := by
    have hsys : ∀ q, (t.set r v).get (.sys q) = t.get (.sys q) := fun q => by
      rw [RegStore.get_set, if_neg fun hq => hr (by rw [← hq]; rfl)]
    rw [hsys, hsys]
    exact h.count

/-! ### Accepted writes -/

theorem RegInv.storeWrite {s : State} (h : RegInv s) {r : Reg} {v : Word} (hr : r.cls ≠ .ro) (hv : r.Range v) :
    RegInv (storeWrite r v s) := by
  have hset : StoreInv (s.regs.set r v) s.latches := ((regInv_iff s).mp h).set hr hv
  rw [regInv_iff]
  unfold Sys2Proof.Machine.storeWrite
  dsimp only
  split
  · exact hset.setLatch fun w hw => Option.some.inj hw ▸ hv
  · exact hset

theorem RegInv.applyWrites {ws : List (Reg × Word)} (hw : ∀ w ∈ ws, w.1.cls ≠ .ro) {s : State} (h : RegInv s) :
    RegInv (applyWrites ws s) := by
  induction ws generalizing s with
  | nil => exact h
  | cons w ws ih =>
    refine ih (fun x hx => hw x (List.mem_cons_of_mem _ hx)) ?_
    cases hc : conv w.1 w.2 with
    | store v => exact h.storeWrite (hw w List.mem_cons_self) (range_of_conv_store hc)
    | illegal => exact h
    | ignored => exact h

/-- The invariant speaks of the store and the latches only. -/
theorem RegInv.congr {s t : State} (h : RegInv s) (ht : StoreKept s t) : RegInv t := by
  obtain ⟨hregs, hlatches⟩ := ht
  rw [regInv_iff, hregs, hlatches, ← regInv_iff]
  exact h

theorem RegInv.of_answered {s t : State} (h : RegInv s) (ha : Answered s t) : RegInv t := by
  rcases ha with ⟨ws, p, hw, rfl⟩ | ⟨fc, code, _, rfl⟩
  · have hcounted : RegInv (countRequest s) := h.congr ⟨rfl, rfl⟩
    exact (hcounted.applyWrites fun w hmem => (hw w hmem).1).congr ⟨rfl, rfl⟩
  · exact h.congr ⟨rfl, rfl⟩

/-! ### Status reflection -/

/-- A bit below `n` is a value below `2^n`. -/
theorem bitAt_lt (b : Bool) {k n : Nat} (h : k < n) : (bitAt b k).toNat < 2 ^ n := by
  have hb : b.toNat ≤ 1 := Bool.toNat_le b
  have hk : 2 ^ k < 2 ^ n := Nat.pow_lt_pow_right (by omega) h
  have hle : (bitAt b k).toNat ≤ b.toNat * 2 ^ k := by
    simpa [bitAt, Nat.shiftLeft_eq] using Nat.mod_le _ _
  calc (bitAt b k).toNat ≤ b.toNat * 2 ^ k := hle
    _ ≤ 1 * 2 ^ k := Nat.mul_le_mul_right _ hb
    _ < 2 ^ n := by omega

/-- 10_state R23: bits 15..4 read 0. -/
theorem sysStatusWord_lt (f w e c : Bool) : (sysStatusWord f w e c).toNat < 2 ^ 4 := by
  simp only [sysStatusWord, BitVec.toNat_or]
  exact Nat.or_lt_two_pow (Nat.or_lt_two_pow (Nat.or_lt_two_pow (bitAt_lt f (by decide)) (bitAt_lt w (by decide)))
    (bitAt_lt e (by decide))) (bitAt_lt c (by decide))

/-- 10_state R28: bits 15..8 read 0. -/
theorem statusFlagsWord_lt (st : ChannelState) (c a f : Bool) : (statusFlagsWord st c a f).toNat < 2 ^ 8 := by
  simp only [statusFlagsWord, BitVec.toNat_or]
  repeat' apply Nat.or_lt_two_pow
  all_goals exact bitAt_lt _ (by decide)

theorem ChannelState.code_le (st : ChannelState) : st.code.toNat ≤ 5 := by
  cases st <;> decide

theorem MasterState.code_le (m : MasterState) : m.code.toNat ≤ 3 := by
  cases m <;> decide

/-- 10_state R22: the reflected count is the number of bits of the reflected mask. -/
theorem popcount16_eq (m : BitVec 4) :
    (popcount16 m).toNat = countChannels fun i => (m.setWidth 16).getLsbD i.val := by
  revert m
  decide

/-- 10_state R29: the code of the snapshot's state, or the mark of no snapshot. -/
theorem reflectChannel_prevState (s : State) (smp : Sample) (i : Chan) :
    (reflectChannel s smp i).prevState.toNat ≤ 5 ∨ (reflectChannel s smp i).prevState = 0xFFFF := by
  unfold reflectChannel
  dsimp only
  split
  · exact .inl (ChannelState.code_le _)
  · exact .inr rfl

/-- Phase D brings the range of every status register about, given the fault code of `CoordInv`; the control registers
and the latches stay (70_reset_and_hazards R433). -/
theorem RegInv.reflectWith {s : State} (h : RegInv s) (hc : s.coord.faultCode.toNat ≤ 5) (smp : Chan → Sample) :
    RegInv (reflectWith smp s) := by
  have hs := (regInv_iff s).mp h
  rw [regInv_iff]
  refine ⟨fun r => ?_, hs.latched, popcount16_eq _⟩
  rcases r with r | r | ⟨i, r⟩
  · cases r
    case sysStatus => exact sysStatusWord_lt ..
    case activeMask =>
      have := s.coord.activeMask.isLt
      show (s.coord.activeMask.setWidth 16).toNat ≤ 15
      simp
      omega
    case masterState => exact s.coord.masterState.code_le
    case faultCode => exact hc
    all_goals trivial
  · trivial
  · have hget : (Machine.reflectWith smp s).regs.get (.chan i r) = (reflectChannel s (smp i) i).get r :=
      congrArg (ChannelRegs.get · r) (Quad.get_ofFn _ i)
    rw [hget]
    cases r
    case startStop => exact hs.range (.chan i .startStop)
    case amplitudeSetpoint => exact hs.range (.chan i .amplitudeSetpoint)
    case overloadReset => exact hs.range (.chan i .overloadReset)
    case statusFlags => exact statusFlagsWord_lt ..
    case prevState => exact reflectChannel_prevState ..
    all_goals trivial

theorem RegInv.reflect {s : State} (h : RegInv s) (hc : s.coord.faultCode.toNat ≤ 5) : RegInv (reflect s) :=
  (h.reflectWith hc (sampleAt s.env.sampleNo)).congr ⟨rfl, rfl⟩

/-! ### Resets -/

theorem RegStore.reset_get_chan (i : Chan) (r : ChanReg) :
    RegStore.reset.get (.chan i r) = ChannelRegs.reset.get r := by
  match i with
  | 0 | 1 | 2 | 3 => rfl

theorem Latches.reset_get (r : Reg) : Latches.reset.get r = none := by
  rcases r with r | r | ⟨i, r⟩
  · rfl
  · cases r <;> rfl
  · match i with
    | 0 | 1 | 2 | 3 => cases r <;> rfl

theorem storeInv_reset : StoreInv RegStore.reset Latches.reset := by
  refine ⟨fun r => ?_, fun r v hv => ?_, rfl⟩
  · rcases r with r | r | ⟨i, r⟩
    · cases r
      case sysStatus => exact Nat.zero_lt_succ _
      case activeMask | masterState | faultCode => exact Nat.zero_le _
      all_goals trivial
    · trivial
    · rw [RegStore.reset_get_chan]
      cases r
      case startStop | overloadReset => exact Nat.zero_le _
      case amplitudeSetpoint => exact ⟨by decide, by decide⟩
      case statusFlags => exact Nat.zero_lt_succ _
      case prevState => exact .inr rfl
      all_goals trivial
  · rw [Latches.reset_get] at hv
    cases hv

/-- A reset reflects the cold state (70_reset_and_hazards R420, R421). -/
theorem regInv_reflect_reset {s : State} (hregs : s.regs = .reset) (hlatches : s.latches = .reset)
    (hcoord : s.coord = .reset) : RegInv (reflectWith zeroSample s) := by
  refine RegInv.reflectWith ?_ (by rw [hcoord]; exact Nat.zero_le _) zeroSample
  rw [regInv_iff, hregs, hlatches]
  exact storeInv_reset

/-! ### Every operation -/

theorem tickClosed_regInv : TickClosed RegInv where
  ctrl h hs := hs.congr h.storeKept
  latch r hs := (regInv_iff _).mpr (((regInv_iff _).mp hs).setLatch nofun)
  pulse hr hs := by
    rcases hr with rfl | ⟨i, rfl⟩
    · exact (regInv_iff _).mpr (((regInv_iff _).mp hs).set (r := .glob .systemReset) (v := 0) nofun trivial)
    · exact (regInv_iff _).mpr
        (((regInv_iff _).mp hs).set (r := .chan i .overloadReset) (v := 0) nofun (Nat.zero_le 1))
  stats hs := hs.congr ⟨rfl, rfl⟩
  edges _ hs := hs.congr ⟨rfl, rfl⟩

theorem RegInv.processFrame {s t : State} (h : RegInv s) (ht : processFrame s = .next t) : RegInv t := by
  obtain ⟨u, hu, hcases⟩ := processFrame_cases s
  obtain rfl := Host.Outcome.next.inj (hu.symm.trans ht)
  rcases hcases with ⟨_, rfl⟩ | ⟨e, rest, _, ⟨d, rfl⟩ | ha⟩
  · exact h
  · exact h.congr (by cases d <;> exact ⟨rfl, rfl⟩)
  · have htaken : RegInv (takeFrame e rest s) := h.congr ⟨rfl, rfl⟩
    exact htaken.of_answered ha

theorem RegInv.tick {s t : State} (h : RegInv s) (hc : CoordInv s) (ht : exec .tick s = .next t) : RegInv t := by
  obtain ⟨e, he, rfl⟩ := tick_phases ht
  have hC : RegInv (tickBeforeReflect s) := tickClosed_regInv.tickBeforeReflect h
  have hD : RegInv (tickBeforeFrame s) := by
    rw [tickBeforeFrame_eq]
    exact hC.reflect hc.tickBeforeReflect.code
  exact (hD.processFrame he).congr ⟨tickAfterFrame_regs e, tickAfterFrame_latches e⟩

theorem exec_keeps_regInv {i : Instr} {s t : State} (hc : CoordInv s) (h : RegInv s) (ht : exec i s = .next t) :
    RegInv t := by
  rcases exec_cases ht with
    ⟨_, ha⟩ | hf | rfl | rfl | ⟨_, rfl, _⟩ | ⟨b, rfl⟩ | rfl | ⟨d, rfl⟩ | ⟨c, rfl⟩
  · exact h.of_answered ha
  · exact h.congr hf.storeKept
  · exact h.tick hc ht
  · cases ht
    exact regInv_reflect_reset rfl rfl rfl
  · exact regInv_reflect_reset rfl rfl rfl
  all_goals exact h.congr (exec_storeKept ht rfl nofun nofun nofun)

/-- Settles O57: a step runs one operation, on a state that differs in the model's own fields only. -/
theorem stepKeepsRegInv : Obligations.StepKeepsRegInv := by
  intro s t hc h ht
  obtain ⟨i, inbox, turn, he⟩ := step_eq s
  rw [he] at ht
  refine exec_keeps_regInv ?_ ?_ ht
  · exact hc.congr rfl rfl rfl
  · exact h.congr ⟨rfl, rfl⟩

end Sys2Proof.Machine
end

section
/-! SUPPORT. The invariant of the queues and of the slave-failure counter (10_state R39, 40_frame_codec R166,
60_exceptions R375). Settles O58. -/

namespace Sys2Proof.Machine

/-! ### What the invariant speaks of -/

theorem CommsInv.congr {s t : State} (h : CommsInv s) (hp : t.params = s.params)
    (hst : t.stats.slaveFailure = s.stats.slaveFailure) (htx : t.txq = s.txq) (hrx : t.rxq = s.rxq) :
    CommsInv t where
  noSlaveFailure := by rw [hst]; exact h.noSlaveFailure
  framed := by rw [htx, hp]; exact h.framed
  bounded := by rw [hrx, hp]; exact h.bounded

theorem SnapFrame.keeps_commsInv {s t : State} (hf : SnapFrame s t) (h : CommsInv s) : CommsInv t := by
  unfold SnapFrame at hf
  rw [hf]
  exact h.congr rfl rfl rfl rfl

/-! ### Requests -/

theorem Stats.withException_slaveFailure (t : Stats) {code : ExcCode} (h : code ≠ .slaveFailure) :
    (t.withException code).slaveFailure = t.slaveFailure := by
  cases code
  case slaveFailure => exact absurd rfl h
  all_goals rfl

/-- A response is queued behind the others (40_frame_codec R168); it is a frame of this station. -/
theorem CommsInv.responded {s : State} (h : CommsInv s) (p : List Byte) :
    CommsInv (responded s (withCrc (s.params.slaveAddr :: p))) where
  noSlaveFailure := h.noSlaveFailure
  framed f hf := by
    rcases List.mem_append.mp hf with hold | hnew
    · exact h.framed f hold
    · exact ⟨p, List.mem_singleton.mp hnew⟩
  bounded := h.bounded

/-- No answer to a request counts a slave failure (60_exceptions R375). -/
theorem CommsInv.of_answered {s t : State} (h : CommsInv s) (ha : Answered s t) : CommsInv t := by
  rcases ha with ⟨ws, p, _, rfl⟩ | ⟨fc, code, hcode, rfl⟩
  · refine CommsInv.responded ?_ p
    exact h.congr rfl rfl rfl rfl
  · have hcounted : CommsInv { s with stats := s.stats.withException code } :=
      h.congr rfl (s.stats.withException_slaveFailure hcode) rfl rfl
    exact hcounted.responded [fc ||| 0x80, code.code]

/-! ### The phases of a tick -/

theorem tickClosed_commsInv : TickClosed CommsInv where
  ctrl hf h := hf.keeps_commsInv h
  latch _ h := h.congr rfl rfl rfl rfl
  pulse _ h := h.congr rfl rfl rfl rfl
  stats h := ⟨rfl, h.framed, h.bounded⟩
  edges _ h := h.congr rfl rfl rfl rfl

theorem CommsInv.reflect {s : State} (h : CommsInv s) : CommsInv (reflect s) := h.congr rfl rfl rfl rfl

/-- Taking the head of `rxq` in hand only shortens the queue. -/
theorem CommsInv.takeFrame {s : State} {e : RxEntry} {rest : List RxEntry} (h : CommsInv s) (hq : s.rxq = e :: rest) :
    CommsInv (takeFrame e rest s) where
  noSlaveFailure := h.noSlaveFailure
  framed := h.framed
  bounded := by
    have hlen := h.bounded
    rw [hq, List.length_cons] at hlen
    exact Nat.le_of_succ_le hlen

theorem CommsInv.processFrame {s t : State} (h : CommsInv s) (ht : processFrame s = .next t) : CommsInv t := by
  obtain ⟨u, hu, hcases⟩ := processFrame_cases s
  obtain rfl := Host.Outcome.next.inj (hu.symm.trans ht)
  rcases hcases with ⟨_, rfl⟩ | ⟨e, rest, hq, ⟨d, rfl⟩ | ha⟩
  · exact h
  · have htaken := h.takeFrame hq
    cases d <;> exact htaken.congr rfl rfl rfl rfl
  · exact (h.takeFrame hq).of_answered ha

theorem commTimeoutCheck_slaveFailure (s : State) :
    (commTimeoutCheck s).stats.slaveFailure = s.stats.slaveFailure := by
  rcases commTimeoutCheck_cases s with e | ⟨_, _, _, e⟩
  · rw [e]
  · rw [e]
    rfl

theorem CommsInv.tickAfterFrame {s : State} (h : CommsInv s) : CommsInv (tickAfterFrame s) :=
  h.congr (tickAfterFrame_params s) (commTimeoutCheck_slaveFailure s) (tickAfterFrame_txq s) (tickAfterFrame_rxq s)

theorem CommsInv.tick {s t : State} (h : CommsInv s) (ht : exec .tick s = .next t) : CommsInv t := by
  obtain ⟨e, he, rfl⟩ := tick_phases ht
  have hD : CommsInv (tickBeforeFrame s) := by
    rw [tickBeforeFrame_eq]
    exact (tickClosed_commsInv.tickBeforeReflect h).reflect
  exact (hD.processFrame he).tickAfterFrame

/-! ### Every operation -/

/-- A delivered frame is queued only while the queue is not full (40_frame_codec R141). -/
theorem CommsInv.execFrame {s t : State} {b : List Byte} (h : CommsInv s) (ht : execFrame b s = .next t) :
    CommsInv t := by
  unfold Sys2Proof.Machine.execFrame at ht
  split at ht <;> cases ht
  · next hroom => exact ⟨h.noSlaveFailure, h.framed, by simpa using hroom⟩
  · exact h.congr rfl rfl rfl rfl

/-- Both resets empty the queues and the statistics (70_reset_and_hazards R420, R421). -/
theorem commsInv_of_empty {s : State} (hst : s.stats = .reset) (htx : s.txq = []) (hrx : s.rxq = []) :
    CommsInv s where
  noSlaveFailure := by rw [hst]; rfl
  framed := by rw [htx]; exact nofun
  bounded := by rw [hrx]; exact Nat.zero_le _

theorem exec_keeps_commsInv {i : Instr} {s t : State} (h : CommsInv s) (ht : exec i s = .next t) : CommsInv t := by
  rcases exec_cases ht with
    ⟨_, ha⟩ | hf | rfl | rfl | ⟨_, rfl, _⟩ | ⟨b, rfl⟩ | rfl | ⟨d, rfl⟩ | ⟨c, rfl⟩
  · exact h.of_answered ha
  · exact hf.keeps_commsInv h
  · exact h.tick ht
  · cases ht
    exact commsInv_of_empty rfl rfl rfl
  · exact commsInv_of_empty rfl rfl rfl
  · exact h.execFrame ht
  · cases ht
    exact ⟨h.noSlaveFailure, fun f hf => h.framed f (List.mem_of_mem_tail hf), h.bounded⟩
  · cases ht
    exact h.congr rfl rfl rfl rfl
  · cases ht
    exact h.congr rfl rfl rfl rfl

/-- Settles O58: a step runs one operation, on a state that differs in the model's own fields only. -/
theorem stepKeepsCommsInv : Obligations.StepKeepsCommsInv := by
  intro s t h ht
  obtain ⟨i, inbox, turn, he⟩ := step_eq s
  rw [he] at ht
  refine exec_keeps_commsInv ?_ ht
  exact h.congr rfl rfl rfl rfl

end Sys2Proof.Machine
end

section
/-! SUPPORT. The address map read both ways (20_memory R72 to R76, 41_register_access R182): the two ends of each block,
which addresses have a slot, and which ranges pass the address check. Settles O7 and O8. -/

namespace Sys2Proof.Machine

/-! ### The ends of a block -/

/-- The first and the last address of a block, as R72 lists them. -/
def Block.ends : Block → Nat × Nat
  | .system => (0x00, 0x0F)
  | .globals => (0x10, 0x12)
  | .channel i => (0x100 + 0x10 * i.val, 0x108 + 0x10 * i.val)

theorem Block.contains_iff_ends {a : Nat} {b : Block} : b.contains a = true ↔ b.ends.1 ≤ a ∧ a ≤ b.ends.2 := by
  rw [contains_iff]
  cases b <;>
    simp [Block.base, Block.table, Block.ends, sysTable, globTable, chanTable, chBase, Config.layout] <;> omega

/-- The blocks do not overlap. -/
theorem Block.eq_of_contains {a : Nat} {b c : Block} (hb : b.contains a = true) (hc : c.contains a = true) : b = c := by
  rw [contains_iff_ends] at hb hc
  cases b <;> cases c <;> simp only [ends] at hb hc
  case system.system => rfl
  case globals.globals => rfl
  case channel.channel i j => rw [show i = j from Fin.ext (by omega)]
  all_goals omega

theorem blockOf_eq_some_iff {a : Nat} {b : Block} : blockOf a = some b ↔ b.ends.1 ≤ a ∧ a ≤ b.ends.2 := by
  rw [← Block.contains_iff_ends]
  refine ⟨blockOf_contains, fun h => ?_⟩
  obtain ⟨c, hc⟩ := Option.isSome_iff_exists.mp (blockOf_isSome_of_contains h)
  rw [hc, Block.eq_of_contains h (blockOf_contains hc)]

/-! ### Addresses with a slot -/

theorem regAt_eq_none_iff_blockOf {a : Nat} : regAt a = none ↔ blockOf a = none := by
  refine ⟨fun h => ?_, regAt_none⟩
  by_contra hb
  have := regAt_isSome (Option.isSome_iff_ne_none.mpr hb)
  simp [h] at this

theorem Block.forall_iff {p : Block → Prop} : (∀ b, p b) ↔ p .system ∧ p .globals ∧ ∀ i, p (.channel i) :=
  ⟨fun h => ⟨h .system, h .globals, fun i => h (.channel i)⟩,
    fun ⟨hs, hg, hc⟩ b => match b with
      | .system => hs
      | .globals => hg
      | .channel i => hc i⟩

/-- R76: an undefined address is outside every block. -/
theorem regAt_eq_none_iff {a : Nat} : regAt a = none ↔ ∀ b : Block, a < b.ends.1 ∨ b.ends.2 < a := by
  rw [regAt_eq_none_iff_blockOf, Option.eq_none_iff_forall_ne_some]
  simp only [ne_eq, blockOf_eq_some_iff, not_and_or, Nat.not_le]

/-- R76 by addresses: the gaps between the blocks. -/
theorem regAt_eq_none_iff_gap {a : Nat} :
    regAt a = none ↔
      (0x13 ≤ a ∧ a ≤ 0xFF) ∨ (∃ i : Chan, 0x109 + 0x10 * i.val ≤ a ∧ a ≤ 0x10F + 0x10 * i.val) ∨ 0x140 ≤ a := by
  rw [regAt_eq_none_iff, Block.forall_iff]
  simp only [Block.ends]
  constructor
  · rintro ⟨hsys, hglob, hchan⟩
    by_cases hin : 0x100 ≤ a ∧ a < 0x140
    · -- `a` can only lie in the block of the channel that its hex digit of weight 0x10 names
      obtain ⟨i, hi⟩ : ∃ i : Chan, i.val = (a - 0x100) / 0x10 := ⟨⟨_, by omega⟩, rfl⟩
      have hout := hchan i
      exact .inr (.inl ⟨i, by omega⟩)
    · omega
  · rintro (h | ⟨j, h⟩ | h) <;> exact ⟨by omega, by omega, fun i => by omega⟩

/-- Registers listed with their addresses. -/
theorem map_regAt_addr (rs : List Reg) : (rs.map Reg.addr).map regAt = rs.map some := by
  simp [regAt_addr]

/-- Settles O7: the tables by the address of each register, the undefined addresses by the gaps between the blocks. -/
theorem registerAddressMap : Obligations.RegisterAddressMap :=
  ⟨fun _ => rfl, fun _ => rfl, map_regAt_addr Block.system.table, map_regAt_addr Block.globals.table,
    fun i => ⟨map_regAt_addr (Block.channel i).table, rfl⟩, fun _ => regAt_eq_none_iff_gap⟩

/-! ### Ranges -/

theorem blocks_map_ends :
    blocks.map Block.ends =
      [(0x00, 0x0F), (0x10, 0x12), (0x100, 0x108), (0x110, 0x118), (0x120, 0x128), (0x130, 0x138)] := rfl

/-- R182 by the ends of the blocks: the first and the last address of the range are in the same one. -/
theorem inOneBlock_iff_ends {a : Word} {q : Nat} :
    inOneBlock a q = true ↔
      1 ≤ q ∧ a.toNat + q - 1 ≤ 0xFFFF ∧ ∃ b : Block, b.ends.1 ≤ a.toNat ∧ a.toNat + q - 1 ≤ b.ends.2 := by
  simp only [inOneBlock_iff, blockOf_eq_some_iff]
  refine and_congr_right fun hq => and_congr_right fun _ => exists_congr fun b => ?_
  omega

/-- Settles O8: the six ranges are the ends of the six blocks. -/
theorem rangeInOneBlockIsDefined : Obligations.RangeInOneBlockIsDefined := by
  intro a q
  refine ⟨?_, fun h k hk => Option.isSome_iff_exists.mp (regAt_isSome_of_inOneBlock h hk)⟩
  rw [inOneBlock_iff_ends, ← blocks_map_ends]
  simp only [List.mem_map, mem_blocks, true_and, exists_exists_eq_and]

end Sys2Proof.Machine
end

section
/-! SUPPORT. The decoder read against the encoder (30_encoding R104 to R118, 40_frame_codec R150): a frame closed with
its CRC passes the checks and its fields read back, a command word reads back by its opcode. Settles O1 to O3. -/

namespace Sys2Proof

/-! ### A frame closed with its CRC (40_frame_codec R145, R166) -/

@[simp] theorem withCrc_length (p : List Byte) : (withCrc p).length = p.length + 2 := by
  simp [withCrc, le16bytes]

theorem take_withCrc (p : List Byte) : (withCrc p).take p.length = p := List.take_left

/-- In front of the CRC the frame is what was closed. -/
theorem byteAt_withCrc {p : List Byte} {k : Nat} (h : k < p.length) : byteAt (withCrc p) k = byteAt p k :=
  List.getD_append _ _ _ _ h

/-- The last two bytes of the frame are its CRC. -/
theorem le16_withCrc (p : List Byte) : le16 (withCrc p) p.length = crc16 p := by
  have lo : byteAt (withCrc p) p.length = loByte (crc16 p) := by simp [byteAt, withCrc, le16bytes]
  have hi : byteAt (withCrc p) (p.length + 1) = hiByte (crc16 p) := by simp [byteAt, withCrc, le16bytes]
  rw [le16, lo, hi]
  exact hi_append_lo (crc16 p)

/-- R150: with the length in range and for this station, such a frame is left to its function code. -/
theorem decodeFrame_withCrc {sa : Byte} {p : List Byte} (haddr : byteAt p 0 = sa) (hmin : 2 ≤ p.length)
    (hmax : p.length ≤ 254) : decodeFrame sa (withCrc p) = decodeFunction (withCrc p) := by
  have hlen : ¬(p.length + 2 < Config.minFrameLen ∨ Config.maxFrameLen < p.length + 2) := by
    simp only [Config.minFrameLen, Config.maxFrameLen]
    omega
  have hsa : byteAt (withCrc p) 0 = sa := (byteAt_withCrc (by omega)).trans haddr
  simp only [decodeFrame, withCrc_length, if_neg hlen, hsa, Nat.add_sub_cancel, take_withCrc, le16_withCrc, ne_eq,
    not_true_eq_false, if_false]

/-- What the function code of such a frame reads is what the frame decodes to. -/
theorem decode_wire_withCrc {sa : Byte} {p : List Byte} {req : Request} (haddr : byteAt p 0 = sa)
    (hmin : 2 ≤ p.length) (hmax : p.length ≤ 254) (hreq : decodeFunction (withCrc p) = .ok req) :
    decode sa (.wire (withCrc p)) = .ok req.toInstr := by
  rw [decode, decodeFrame_withCrc haddr hmin hmax, hreq]

/-! ### The function codes (30_encoding R104 to R109) -/

/-- R10: a word written high byte first reads back. -/
theorem be16_of_bytes {f : List Byte} {i : Nat} {v : Word} (hhi : byteAt f i = hiByte v)
    (hlo : byteAt f (i + 1) = loByte v) : be16 f i = v := by
  rw [be16, hhi, hlo]
  exact hi_append_lo v

theorem decodeFunction_read {f : List Byte} (hfc : byteAt f 1 = 0x03) (hlen : f.length = 8) :
    decodeFunction f = .ok (.read (be16 f 2) (be16 f 4)) := by
  simp [decodeFunction, hfc, hlen]

theorem decodeFunction_write1 {f : List Byte} (hfc : byteAt f 1 = 0x06) (hlen : f.length = 8) :
    decodeFunction f = .ok (.write1 (be16 f 2) (be16 f 4)) := by
  simp [decodeFunction, hfc, hlen]

/-- R109: the data is what stands between the byte count and the CRC. -/
theorem decodeFunction_writeN {head data : List Byte} {bc : Byte} (hhead : head.length = 7)
    (hfc : byteAt head 1 = 0x10) (hbc : byteAt head 6 = bc) (hdata : data.length = bc.toNat) :
    decodeFunction (withCrc (head ++ data)) =
      .ok (.writeN (be16 (withCrc (head ++ data)) 2) (be16 (withCrc (head ++ data)) 4) bc data) := by
  have hbyte : ∀ k < 7, byteAt (withCrc (head ++ data)) k = byteAt head k := fun k hk =>
    (byteAt_withCrc (by rw [List.length_append]; omega)).trans (List.getD_append _ _ _ _ (hhead ▸ hk))
  have hlen : (withCrc (head ++ data)).length = 9 + bc.toNat := by
    rw [withCrc_length, List.length_append, hhead, hdata]
    omega
  have htake : ((withCrc (head ++ data)).drop 7).take bc.toNat = data := by
    rw [withCrc, List.append_assoc, List.drop_left' hhead, List.take_left' hdata]
  simp [decodeFunction, hbyte, hfc, hbc, hlen, htake]

theorem decodeFunction_illegal {f : List Byte} (hfc : supportedFunction (byteAt f 1) = false) :
    decodeFunction f = .ok (.illegal (byteAt f 1)) := by
  simp only [supportedFunction, Bool.or_eq_false_iff, beq_eq_false_iff_ne, ne_eq] at hfc
  obtain ⟨⟨hread, hwrite1⟩, hwriteN⟩ := hfc
  simp only [decodeFunction, if_neg hread, if_neg hwrite1, if_neg hwriteN]

/-! ### The wire requests, encoded and decoded -/

theorem decode_encode_readHoldingRegisters (sa : Byte) (start qty : Word) :
    decode sa (encode sa (.readHoldingRegisters start qty)) = .ok (.readHoldingRegisters start qty) := by
  refine decode_wire_withCrc (req := .read start qty) rfl (by simp) (by simp [be16bytes]) ?_
  rw [decodeFunction_read rfl rfl, be16_of_bytes (v := start) rfl rfl, be16_of_bytes (v := qty) rfl rfl]

theorem decode_encode_writeSingleRegister (sa : Byte) (reg value : Word) :
    decode sa (encode sa (.writeSingleRegister reg value)) = .ok (.writeSingleRegister reg value) := by
  refine decode_wire_withCrc (req := .write1 reg value) rfl (by simp) (by simp [be16bytes]) ?_
  rw [decodeFunction_write1 rfl rfl, be16_of_bytes (v := reg) rfl rfl, be16_of_bytes (v := value) rfl rfl]

theorem decode_encode_writeMultipleRegisters (sa : Byte) (start qty : Word) {bc : Byte} {data : List Byte}
    (hdata : data.length = bc.toNat) (hmax : 9 + bc.toNat ≤ 256) :
    decode sa (encode sa (.writeMultipleRegisters start qty bc data)) =
      .ok (.writeMultipleRegisters start qty bc data) := by
  have hlen : ([sa, 0x10] ++ be16bytes start ++ be16bytes qty ++ [bc] ++ data).length = 7 + bc.toNat := by
    rw [List.length_append, hdata]
    rfl
  refine decode_wire_withCrc (req := .writeN start qty bc data) rfl (by omega) (by omega) ?_
  rw [decodeFunction_writeN (bc := bc) rfl rfl rfl hdata, be16_of_bytes (v := start) rfl rfl,
    be16_of_bytes (v := qty) rfl rfl]

theorem decode_encode_illegalFunction (sa : Byte) {fc : Byte} (h : supportedFunction fc = false) :
    decode sa (encode sa (.illegalFunction fc)) = .ok (.illegalFunction fc) :=
  decode_wire_withCrc (req := .illegal fc) rfl (by simp) (by simp) (decodeFunction_illegal h)

/-! ### The fields of a command word (30_encoding R116) -/

@[simp] theorem argOf_commandWord (op arg : Byte) : argOf (commandWord op arg) = arg := by
  apply BitVec.eq_of_getLsbD_eq
  intro i hi
  simp [argOf, loByte, commandWord, append_getLsbD, hi]

@[simp] theorem maskOf_commandWord (op : Byte) (mask : BitVec 4) :
    maskOf (commandWord op (mask.setWidth 8)) = mask := by
  apply BitVec.eq_of_getLsbD_eq
  intro i hi
  simp [maskOf, commandWord, append_getLsbD, hi, show i < 8 by omega]

@[simp] theorem flagOf_commandWord (op : Byte) (flag : Bool) (idx : BitVec 7) :
    flagOf (commandWord op (flagArg flag idx)) = flag := by
  rw [flagOf, commandWord, append_getLsbD, if_pos (by decide), flagArg, BitVec.getLsbD_append]
  simp

@[simp] theorem idx7Of_commandWord (op : Byte) (flag : Bool) (idx : BitVec 7) :
    idx7Of (commandWord op (flagArg flag idx)) = idx := by
  apply BitVec.eq_of_getLsbD_eq
  intro i hi
  rw [idx7Of, BitVec.getLsbD_extractLsb', commandWord, append_getLsbD, if_pos (by omega), flagArg,
    BitVec.getLsbD_append]
  simp [hi]

/-! ### The opcodes (30_encoding R117, R118) -/

theorem reservedOpcode_iff {op : Byte} : reservedOpcode op = true ↔ op.toNat = 0 ∨ 0x0C ≤ op.toNat := by
  simp [reservedOpcode, BitVec.toNat_eq]

theorem exists_of_not_reservedOpcode {op : Byte} (h : ¬reservedOpcode op = true) :
    ∃ n, 0 < n ∧ n < 0x0C ∧ op = BitVec.ofNat 8 n := by
  rw [reservedOpcode_iff] at h
  exact ⟨op.toNat, by omega, by omega, by simp⟩

theorem decodeCommand_of_reservedOpcode {w : Word} (h : reservedOpcode (opOf w) = true) :
    decodeCommand w = .reservedCommand (opOf w) := by
  have hne : ∀ n, 0 < n → n < 0x0C → opOf w ≠ BitVec.ofNat 8 n := by
    rintro n h0 hC hop
    rw [reservedOpcode_iff, hop, BitVec.toNat_ofNat] at h
    omega
  simp [decodeCommand, hne]

/-- Each of the eleven opcodes of R117 has a row, and no row is the reserved operation. -/
theorem decodeCommand_ne_reservedCommand {w : Word} (h : ¬reservedOpcode (opOf w) = true) (op : Byte) :
    decodeCommand w ≠ .reservedCommand op := by
  obtain ⟨n, h0, hC, hop⟩ := exists_of_not_reservedOpcode h
  rw [decodeCommand, hop]
  interval_cases n <;> exact nofun

theorem decodeCommand_eq_reservedCommand_iff {w : Word} :
    (∃ op, decodeCommand w = .reservedCommand op) ↔ reservedOpcode (opOf w) = true := by
  constructor
  · rintro ⟨op, hop⟩
    by_contra hrow
    exact decodeCommand_ne_reservedCommand hrow op hop
  · exact fun h => ⟨_, decodeCommand_of_reservedOpcode h⟩

/-! ### The obligations -/

/-- Settles O1, by the constructors of the operation. -/
theorem decodeEncodeRoundTrip : Obligations.DecodeEncodeRoundTrip := by
  intro sa i hwf
  cases i with
  | readHoldingRegisters start qty => exact decode_encode_readHoldingRegisters sa start qty
  | writeSingleRegister reg value => exact decode_encode_writeSingleRegister sa reg value
  | writeMultipleRegisters start qty bc data =>
    simp only [Instr.wellFormed, Bool.and_eq_true, beq_iff_eq, decide_eq_true_eq] at hwf
    obtain ⟨hdata, hmax⟩ := hwf
    exact decode_encode_writeMultipleRegisters sa start qty hdata hmax
  | illegalFunction fc => exact decode_encode_illegalFunction sa (by simpa [Instr.wellFormed] using hwf)
  | coordStart | coordStop | unitStart | unitStop | reportFault | emergencyStop | clearEstop | unitReset | setInhibit
  | confirmStart | update =>
    -- the opcode selects the row of R117, and the row reads back the operand
    refine congrArg Except.ok ?_
    rw [decodeInput, decodeCommand, Laws.opOf_commandWord]
    simp only [argOf_commandWord, maskOf_commandWord, flagOf_commandWord, idx7Of_commandWord]
    rfl
  | reservedCommand op =>
    have hres : reservedOpcode (opOf (commandWord op 0)) = true := by rwa [Laws.opOf_commandWord]
    rw [encode, decode, decodeInput, decodeCommand_of_reservedOpcode hres, Laws.opOf_commandWord]
  | frame | txDone | tick | advance | wdtExpire | overloadEdge | powerOn => rfl

/-- Settles O2, by evaluation of the decoder on the seven words. -/
theorem decodeKnownWords : Obligations.DecodeKnownWords := by
  refine ⟨?_, ?_, ?_, ?_, ?_, ?_, ?_⟩
  all_goals decide +kernel

/-- Settles O3: the words by their opcode, the answer by the meaning of the reserved operation. -/
theorem reservedWordsAnswerFalse : Obligations.ReservedWordsAnswerFalse := by
  intro w s
  refine ⟨?_, fun _ => rfl⟩
  rw [decodeCommand_eq_reservedCommand_iff, reservedOpcode_iff, opOf, hiByte_toNat]

end Sys2Proof
end

section
/-! SUPPORT. The frame codec read as the checks of 40_frame_codec R150: the CRC comparison as a zero residue (R146), each
check as the kind of drop it makes, and what phase E and the agent steps of the queues leave. Settles O4 to O6, O18 and O31
to O33. -/

namespace Sys2Proof

/-! ### The CRC residue (40_frame_codec R146) -/

/-- A list of at least two bytes ends with the two bytes that `le16` reads. -/
theorem take_append_last_two {f : List Byte} (h : 2 ≤ f.length) :
    f.take (f.length - 2) ++ [byteAt f (f.length - 2), byteAt f (f.length - 2 + 1)] = f := by
  have htwo : f.drop (f.length - 2) = [byteAt f (f.length - 2), byteAt f (f.length - 2 + 1)] := by
    rw [List.drop_eq_getElem_cons (by omega), List.drop_eq_getElem_cons (by omega), List.drop_eq_nil_of_le (by omega)]
    simp only [byteAt]
    rw [List.getD_eq_getElem _ _ (by omega), List.getD_eq_getElem _ _ (by omega)]
  rw [← htwo, List.take_append_drop]

/-- R146: the two ways to check a frame agree. -/
theorem le16_eq_crc16_iff {f : List Byte} (h : 2 ≤ f.length) :
    le16 f (f.length - 2) = crc16 (f.take (f.length - 2)) ↔ crc16 f = 0 := by
  have hcrc : crc16 f = crcByte (crcByte (crc16 (f.take (f.length - 2))) (byteAt f (f.length - 2)))
      (byteAt f (f.length - 2 + 1)) := by
    conv_lhs => rw [← take_append_last_two h, crc16_append]
    rfl
  rw [hcrc, crcByte_crcByte_eq_zero]
  exact eq_comm

/-- R146: a list closed with its CRC has no residue. -/
theorem crc16_withCrc (m : List Byte) : crc16 (withCrc m) = 0 := by
  rw [← le16_eq_crc16_iff (by simp), withCrc_length, Nat.add_sub_cancel, take_withCrc, le16_withCrc]

/-- Settles O4: the second half undoes the last two steps of the CRC, and the first half follows from it. -/
theorem crcResidueIsZero : Obligations.CrcResidueIsZero :=
  ⟨crc16_withCrc, fun _ h => le16_eq_crc16_iff h⟩

/-! ### The checks of the decoder (40_frame_codec R150, R152 to R157) -/

theorem decodeFrame_badLength {sa : Byte} {f : List Byte} (h : f.length < 4 ∨ 256 < f.length) :
    decodeFrame sa f = .error .badLength := if_pos h

section
variable {sa : Byte} {f : List Byte} (hmin : 4 ≤ f.length) (hmax : f.length ≤ 256)
include hmin hmax

/-- A frame of a legal length is left to the checks of its address, its CRC and its function code. -/
theorem decodeFrame_of_length :
    decodeFrame sa f =
      if byteAt f 0 ≠ sa then .error .otherStation
      else if le16 f (f.length - 2) ≠ crc16 (f.take (f.length - 2)) then .error .crcMismatch
      else decodeFunction f := by
  refine if_neg ?_
  simp only [Config.minFrameLen, Config.maxFrameLen]
  omega

theorem decodeFrame_otherStation (haddr : byteAt f 0 ≠ sa) : decodeFrame sa f = .error .otherStation := by
  rw [decodeFrame_of_length hmin hmax, if_pos haddr]

theorem decodeFrame_crcMismatch (haddr : byteAt f 0 = sa)
    (hcrc : ¬le16 f (f.length - 2) = crc16 (f.take (f.length - 2))) : decodeFrame sa f = .error .crcMismatch := by
  rw [decodeFrame_of_length hmin hmax, if_neg (not_not_intro haddr), if_pos hcrc]

theorem decodeFrame_goodCrc (haddr : byteAt f 0 = sa)
    (hcrc : le16 f (f.length - 2) = crc16 (f.take (f.length - 2))) : decodeFrame sa f = decodeFunction f := by
  rw [decodeFrame_of_length hmin hmax, if_neg (not_not_intro haddr), if_neg (not_not_intro hcrc)]

end

/-- R157: a supported function code whose frame has not the length the code asks for. -/
theorem decodeFunction_wrongLength {f : List Byte}
    (h : (byteAt f 1 = 0x03 ∧ f.length ≠ 8) ∨ (byteAt f 1 = 0x06 ∧ f.length ≠ 8) ∨
      (byteAt f 1 = 0x10 ∧ (f.length < 9 ∨ f.length ≠ 9 + (byteAt f 6).toNat))) :
    decodeFunction f = .error .wrongLength := by
  unfold decodeFunction
  rcases h with ⟨hfc, hlen⟩ | ⟨hfc, hlen⟩ | ⟨hfc, hlen⟩
  · simp [hfc, hlen]
  · simp [hfc, hlen]
  · have hbad : ¬(9 ≤ f.length ∧ f.length = 9 + (byteAt f 6).toNat) := by omega
    simp [hfc, hbad]

/-! ### One corrupted byte (40_frame_codec R147) -/

theorem byteAt_set_self {f : List Byte} {k : Nat} (hk : k < f.length) (b : Byte) : byteAt (f.set k b) k = b := by
  simp [byteAt, hk]

theorem byteAt_set_ne {f : List Byte} {k i : Nat} (h : k ≠ i) (b : Byte) : byteAt (f.set k b) i = byteAt f i := by
  simp [byteAt, h]

/-- R147: a good frame with one byte changed is for another station, or its CRC does not match. -/
theorem decodeFrame_set {sa : Byte} {f : List Byte} {k : Nat} {b : Byte} (hmin : 4 ≤ f.length) (hmax : f.length ≤ 256)
    (haddr : byteAt f 0 = sa) (hcrc : le16 f (f.length - 2) = crc16 (f.take (f.length - 2))) (hk : k < f.length)
    (hb : b ≠ byteAt f k) :
    decodeFrame sa (f.set k b) = .error (if k = 0 then .otherStation else .crcMismatch) := by
  have hlen : (f.set k b).length = f.length := List.length_set
  by_cases hk0 : k = 0
  · subst hk0
    rw [if_pos rfl]
    refine decodeFrame_otherStation (by omega) (by omega) ?_
    rwa [byteAt_set_self hk, ← haddr]
  · rw [if_neg hk0]
    refine decodeFrame_crcMismatch (by omega) (by omega) ((byteAt_set_ne hk0 b).trans haddr) ?_
    rw [le16_eq_crc16_iff (by omega)]
    rw [le16_eq_crc16_iff (by omega)] at hcrc
    rw [byteAt, List.getD_eq_getElem _ _ hk] at hb
    exact fun hzero => crc16_set_ne hk hb (hzero.trans hcrc.symm)

end Sys2Proof

namespace Sys2Proof.Machine

/-! ### Phase E (40_frame_codec R150, R160 to R162) -/

theorem processFrame_drop {s : State} {e : RxEntry} {rest : List RxEntry} {d : FrameDrop} (hq : s.rxq = e :: rest)
    (hd : decodeFrame s.params.slaveAddr e.bytes = .error d) :
    processFrame s = .next (dropFrame d (takeFrame e rest s)) := by
  unfold processFrame
  simp only [hq, hd]

/-- Settles O6: each check that fails names the drop, and the drop its counters. -/
theorem droppedFramesOnlyCount : Obligations.DroppedFramesOnlyCount := by
  intro s f at_ rest hq
  refine ⟨fun hlen => ?_, fun hmin hmax haddr => ?_, fun hmin hmax haddr hcrc => ?_,
    fun hmin hmax haddr hcrc hwrong => ?_⟩
  · exact processFrame_drop hq (decodeFrame_badLength hlen)
  · exact processFrame_drop hq (decodeFrame_otherStation hmin hmax haddr)
  · exact processFrame_drop hq (decodeFrame_crcMismatch hmin hmax haddr hcrc)
  · exact processFrame_drop hq
      ((decodeFrame_goodCrc hmin hmax haddr hcrc).trans (decodeFunction_wrongLength hwrong))

/-- Settles O5: the changed byte is the address, or it changes the residue. -/
theorem corruptedByteIsDropped : Obligations.CorruptedByteIsDropped := by
  intro s f k b at_ rest hmin hmax haddr hcrc hk hb hq
  rw [processFrame_drop hq (decodeFrame_set hmin hmax haddr hcrc hk hb)]
  by_cases hk0 : k = 0
  · rw [if_pos hk0, if_pos hk0]
    rfl
  · rw [if_neg hk0, if_neg hk0]
    rfl

/-- R160: a dropped frame draws no response and reaches neither link nor store. -/
theorem dropFrame_silent (d : FrameDrop) (s : State) :
    (dropFrame d s).txq = s.txq ∧ (dropFrame d s).link = s.link ∧ StoreKept s (dropFrame d s) := by
  cases d with
  | badLength | otherStation | crcMismatch | wrongLength => exact ⟨rfl, rfl, rfl, rfl⟩

/-- R162: an answered request queues one response and refreshes the link. -/
theorem Answered.queued {s t : State} (h : Answered s t) :
    ∃ resp, t.txq = s.txq ++ [resp] ∧ t.link = ⟨true, false, s.nowMs⟩ := by
  rcases h with ⟨ws, p, _, rfl⟩ | ⟨fc, code, _, rfl⟩
  · exact ⟨_, rfl, rfl⟩
  · exact ⟨_, rfl, rfl⟩

/-- Settles O18: phase E has nothing to do, drops the frame, or answers it. -/
theorem linkRefreshedOnlyByAResponse : Obligations.LinkRefreshedOnlyByAResponse := by
  intro s
  obtain ⟨t, ht, hcases⟩ := processFrame_cases s
  refine ⟨t, ht, processFrame_frame ht, ?_⟩
  rcases hcases with ⟨_, rfl⟩ | ⟨e, rest, _, ⟨d, rfl⟩ | hanswered⟩
  · exact .inl ⟨rfl, rfl, rfl, rfl⟩
  · exact .inl (dropFrame_silent d (takeFrame e rest s))
  · exact .inr hanswered.queued

/-! ### The agent steps of the queues, the time and the inputs (40_frame_codec R141, R171, 60_exceptions R404, R410) -/

/-- Settles O31, by the room in the queue. -/
theorem frameQueuedOrCounted : Obligations.FrameQueuedOrCounted := by
  intro bytes s
  rw [exec, execFrame]
  split
  · rfl
  · rfl

theorem exec_txDone (s : State) : exec .txDone s = .next { s with txq := s.txq.tail } := rfl

theorem exec_overloadEdge (i : Chan) (s : State) :
    exec (.overloadEdge i) s = .next { s with ovlEdge := s.ovlEdge.set i true } := rfl

/-- The time is the sum modulo 2^32 (10_state R41). -/
theorem exec_advance (dt : U32) (s : State) :
    exec (.advance dt) s = .next { s with nowMs := BitVec.ofNat 32 (s.nowMs.toNat + dt.toNat) } := by
  rw [BitVec.ofNat_add, BitVec.ofNat_toNat, BitVec.ofNat_toNat, BitVec.setWidth_eq, BitVec.setWidth_eq]
  rfl

theorem exec_wdtExpire_early {s : State} (h : (s.nowMs - s.wdt.lastKickMs).toNat ≤ s.params.wdtTimeoutMs) :
    exec .wdtExpire s = .next s := by
  refine if_neg ?_
  rw [watchdogExpired_iff]
  omega

/-- Settles O32, by the meaning of each step. -/
theorem agentStepsTouchOnlyTheirState : Obligations.AgentStepsTouchOnlyTheirState := by
  intro s
  refine ⟨fun head rest hq => ?_, fun dt _ => exec_advance dt s, fun i => ?_⟩
  · rw [exec_txDone, hq]
    rfl
  · exact ⟨_, exec_overloadEdge i s, rfl, fun j => Quad.get_set s.ovlEdge i j true⟩

/-- Settles O33: the tail of an empty queue is empty, and the watchdog has not expired. -/
theorem disabledStepsChangeNothing : Obligations.DisabledStepsChangeNothing := by
  intro s
  refine ⟨fun hq => ?_, exec_wdtExpire_early⟩
  rw [exec_txDone, hq, List.tail_nil, ← hq]

end Sys2Proof.Machine
end

section
/-! SUPPORT. The register requests (41_register_access R180 to R206) as replies of the dispatcher: what a read, a write
and a write-multiple answer once their checks are known to pass or to fail. Settles O10 to O17. -/

namespace Sys2Proof.Machine

/-! ### What a request runs -/

theorem exec_readHoldingRegisters (start qty : Word) (s : State) :
    exec (.readHoldingRegisters start qty) s =
      respond 0x03 (readRegs start qty (countRequest s)) (countRequest s) := rfl

theorem exec_writeSingleRegister (a v : Word) (s : State) :
    exec (.writeSingleRegister a v) s = respond 0x06 (writeReg a v (countRequest s)) (countRequest s) := rfl

theorem exec_writeMultipleRegisters (start qty : Word) (bc : Byte) (data : List Byte) (s : State) :
    exec (.writeMultipleRegisters start qty bc data) s =
      respond 0x10 (writeRegs start qty bc data (countRequest s)) (countRequest s) := rfl

theorem exec_illegalFunction (fc : Byte) (s : State) :
    exec (.illegalFunction fc) s = .next (takeException fc .illegalFunction (countRequest s)) := rfl

/-- Settles O16: the exception response with code 1, whatever the state. -/
theorem illegalFunctionDrawsCodeOne : Obligations.IllegalFunctionDrawsCodeOne := by
  intro fc s
  rw [exec_illegalFunction, takeException_rejected]
  rfl

/-! ### Reads (R190, R191) -/

theorem readRegs_badQuantity {start qty : Word} (s : State) (h : qty.toNat = 0 ∨ 125 < qty.toNat) :
    readRegs start qty s = .exc .illegalValue := by
  refine if_pos ?_
  simp only [Config.readQtyMax]
  omega

section
variable {start qty : Word} (hmin : 1 ≤ qty.toNat) (hmax : qty.toNat ≤ 125)
include hmin hmax

theorem readQuantity_good : ¬(qty.toNat < 1 ∨ Config.readQtyMax < qty.toNat) := by
  simp only [Config.readQtyMax]
  omega

theorem readRegs_badRange (s : State) (h : inOneBlock start qty.toNat = false) :
    readRegs start qty s = .exc .illegalAddress := by
  rw [readRegs, if_neg (readQuantity_good hmin hmax), if_pos h]

theorem readRegs_ok (s : State) {rs : List Reg} (h : inOneBlock start qty.toNat = true)
    (hrs : regsFrom start.toNat qty.toNat = some rs) :
    readRegs start qty s = .ok (loByte (2 * qty) :: rs.flatMap fun r => be16bytes (s.reg r)) s := by
  rw [readRegs, if_neg (readQuantity_good hmin hmax), if_neg (by simp [h]), hrs]

end

theorem regValueAt_of_regAt {s : State} {a : Nat} {r : Reg} (h : regAt a = some r) :
    regValueAt s a = s.regs.get r := by
  simp only [regValueAt, h]

/-- The registers of a range hold the values at its addresses. -/
theorem map_get_regsFrom {a q : Nat} {rs : List Reg} (h : regsFrom a q = some rs) (s : State) :
    rs.map s.regs.get = (List.range q).map fun k => regValueAt s (a + k) := by
  obtain ⟨hlen, hat⟩ := regsFrom_eq_some_iff.mp h
  refine List.ext_getElem (by simp [hlen]) fun k hk _ => ?_
  have hkr : k < rs.length := by simpa using hk
  have hr : regAt (a + k) = some rs[k] := by rw [hat k (by omega), List.getElem?_eq_getElem hkr]
  simp [regValueAt_of_regAt hr]

/-- The byte count of a read response (30_encoding R106). -/
theorem loByte_two_mul (qty : Word) : loByte (2 * qty) = BitVec.ofNat 8 (2 * qty.toNat) := by
  apply BitVec.eq_of_toNat_eq
  have htwo : (2 : Word).toNat = 2 := rfl
  simp only [loByte_toNat, BitVec.toNat_mul, BitVec.toNat_ofNat, htwo]
  omega

/-- Settles O10: the reply carries the registers of the range, which are the values at its addresses. -/
theorem readAnswersTheRegisters : Obligations.ReadAnswersTheRegisters := by
  intro start qty s hmin hmax hblock
  obtain ⟨rs, hrs⟩ := regsFrom_of_inOneBlock hblock
  have hvalues : (rs.flatMap fun r => be16bytes ((countRequest s).reg r)) =
      (List.range qty.toNat).flatMap fun k => be16bytes (regValueAt s (start.toNat + k)) := by
    have h := congrArg (List.flatMap be16bytes) (map_get_regsFrom hrs s)
    rwa [List.flatMap_map, List.flatMap_map] at h
  rw [exec_readHoldingRegisters, readRegs_ok hmin hmax _ hblock hrs, respond_ok (StoreFrame.refl _), hvalues,
    loByte_two_mul]
  rfl

/-- Settles O11, by the first check that fails. -/
theorem readExceptions : Obligations.ReadExceptions := by
  intro start qty s
  refine ⟨fun hqty => ?_, fun hmin hmax hblock => ?_⟩
  · rw [exec_readHoldingRegisters, readRegs_badQuantity _ hqty, respond_exc]
  · rw [exec_readHoldingRegisters, readRegs_badRange hmin hmax _ hblock, respond_exc]

/-! ### Writes of one register (R186, R187, R192) -/

theorem writeReg_undefined {a : Word} (h : regAt a.toNat = none) (v : Word) (s : State) :
    writeReg a v s = .exc .illegalAddress :=
  if_pos ((inOneBlock_one_eq_false_iff a).mpr h)

section
variable {a : Word} {r : Reg} (hr : regAt a.toNat = some r) (v : Word) (s : State)
include hr

theorem writeReg_readOnly (hro : r.cls = .ro) : writeReg a v s = .exc .illegalAddress := by
  have hblock : inOneBlock a 1 = true := (inOneBlock_one_iff a).mpr ⟨r, hr⟩
  simp [writeReg, hblock, hr, hro]

theorem writeReg_illegal (hro : r.cls ≠ .ro) (hv : conv r v = .illegal) : writeReg a v s = .exc .illegalValue := by
  have hblock : inOneBlock a 1 = true := (inOneBlock_one_iff a).mpr ⟨r, hr⟩
  simp [writeReg, hblock, hr, hro, hv]

theorem writeReg_ok (hro : r.cls ≠ .ro) (hv : conv r v ≠ .illegal) :
    writeReg a v s = .ok (be16bytes a ++ be16bytes v) (applyConv r (conv r v) s) := by
  have hblock : inOneBlock a 1 = true := (inOneBlock_one_iff a).mpr ⟨r, hr⟩
  cases hc : conv r v with
  | illegal => exact absurd hc hv
  | store w => simp [writeReg, hblock, hr, hro, hc]
  | ignored => simp [writeReg, hblock, hr, hro, hc]

end

/-- An accepted value is not refused. -/
theorem accepts.conv_ne_illegal {r : Reg} {v : Word} (h : accepts r v) : conv r v ≠ .illegal := by
  rw [ne_eq, conv_eq_illegal_iff]
  rintro ⟨hbool, h0, h1⟩
  exact (h.2 hbool).elim h0 h1

/-- The state an accepted write leaves, before its response. -/
def writtenState (s : State) (r : Reg) (v : Word) : State :=
  if r.cls = .roDiag then s
  else
    { s with
      regs := s.regs.set r (storedValue r v)
      latches := if r.hasLatch = true then s.latches.set r (some (storedValue r v)) else s.latches }

theorem storeWrite_eq (r : Reg) (v : Word) (s : State) :
    storeWrite r v s =
      { s with
        regs := s.regs.set r v
        latches := if r.hasLatch = true then s.latches.set r (some v) else s.latches } := by
  unfold storeWrite
  dsimp only
  split <;> rfl

theorem applyConv_of_accepts {r : Reg} {v : Word} (h : accepts r v) (s : State) :
    applyConv r (conv r v) s = writtenState s r v := by
  rw [conv_of_accepts h, writtenState]
  split
  · rfl
  · exact storeWrite_eq r _ s

theorem exec_writeSingleRegister_accepted {a v : Word} {r : Reg} (hr : regAt a.toNat = some r) (h : accepts r v)
    (s : State) :
    exec (.writeSingleRegister a v) s =
      .next
        (responded (writtenState s r v)
          (withCrc ([s.params.slaveAddr, 0x06] ++ be16bytes a ++ be16bytes v))) := by
  rw [exec_writeSingleRegister, writeReg_ok hr v _ h.1 h.conv_ne_illegal, respond_ok (applyConv_store ..),
    applyConv_of_accepts h, List.append_assoc]
  unfold writtenState
  split <;> rfl

/-- Settles O12: the response is the request frame, which the encoder writes. -/
theorem writeSingleStores : Obligations.WriteSingleStores :=
  fun _ _ _ s hr h => ⟨_, rfl, exec_writeSingleRegister_accepted hr h s⟩

/-- Settles O13, by the check that fails. -/
theorem writeSingleExceptions : Obligations.WriteSingleExceptions := by
  intro a v s
  refine ⟨fun hr => ?_, fun r hr hro => ?_, fun r hr hbool h0 h1 => ?_⟩
  · rw [exec_writeSingleRegister, writeReg_undefined hr, respond_exc]
  · rw [exec_writeSingleRegister, writeReg_readOnly hr v _ hro, respond_exc]
  · have hill : conv r v = .illegal := conv_eq_illegal_iff.mpr ⟨hbool, h0, h1⟩
    rw [exec_writeSingleRegister, writeReg_illegal hr v _ (by simp [hbool]) hill, respond_exc]

/-- Settles O17: the read is one of O10, of the state that O12 leaves. -/
theorem writeThenReadRoundTrip : Obligations.WriteThenReadRoundTrip := by
  intro a v r s hr h hdiag
  refine ⟨_, exec_writeSingleRegister_accepted hr h s, ?_⟩
  have hblock : inOneBlock a 1 = true := (inOneBlock_one_iff a).mpr ⟨r, hr⟩
  have hvalue : ∀ resp, regValueAt (responded (writtenState s r v) resp) a.toNat = storedValue r v := fun resp => by
    rw [regValueAt_of_regAt hr, writtenState, if_neg hdiag]
    exact (RegStore.get_set ..).trans (if_pos rfl)
  have haddr : ∀ resp, (responded (writtenState s r v) resp).params = s.params := fun resp => by
    unfold writtenState
    split <;> rfl
  rw [readAnswersTheRegisters a 1 _ (by decide) (by decide) hblock]
  simp [hvalue, haddr, storedValue]

/-! ### Writes of several registers (R197 to R200) -/

/-- The registers of a range are those at its addresses. -/
theorem mem_regsFrom {a q : Nat} {rs : List Reg} (h : regsFrom a q = some rs) {r : Reg} :
    r ∈ rs ↔ ∃ k < q, regAt (a + k) = some r := by
  obtain ⟨hlen, hat⟩ := regsFrom_eq_some_iff.mp h
  rw [List.mem_iff_getElem?]
  constructor
  · rintro ⟨k, hk⟩
    have hlt : k < q := hlen ▸ (List.getElem?_eq_some_iff.mp hk).1
    exact ⟨k, hlt, (hat k hlt).trans hk⟩
  · rintro ⟨k, hlt, hk⟩
    exact ⟨k, (hat k hlt).symm.trans hk⟩

/-- The writes a write-multiple makes in the registers of its range (R200). -/
def writesOf (rs : List Reg) (data : List Byte) (q : Nat) : List (Reg × Word) := rs.zip (valuesOf data q)

/-- The writes of a range pair the register at each address with the value at the same place in the data. -/
theorem mem_writes {a q : Nat} {rs : List Reg} (h : regsFrom a q = some rs) (data : List Byte) {r : Reg} {v : Word} :
    (r, v) ∈ writesOf rs data q ↔ ∃ k < q, regAt (a + k) = some r ∧ be16 data (2 * k) = v := by
  obtain ⟨hlen, hat⟩ := regsFrom_eq_some_iff.mp h
  simp only [writesOf, List.mem_iff_getElem?, List.getElem?_zip_eq_some]
  constructor
  · rintro ⟨k, hk, hv⟩
    have hlt : k < q := hlen ▸ (List.getElem?_eq_some_iff.mp hk).1
    exact ⟨k, hlt, (hat k hlt).trans hk, by simpa [valuesOf, hlt] using hv⟩
  · rintro ⟨k, hlt, hk, hv⟩
    exact ⟨k, (hat k hlt).symm.trans hk, by simp [valuesOf, hlt, hv]⟩

/-- No register is written twice. -/
theorem regsFrom_nodup {a q : Nat} {rs : List Reg} (h : regsFrom a q = some rs) : rs.Nodup := by
  obtain ⟨hlen, hat⟩ := regsFrom_eq_some_iff.mp h
  rw [List.nodup_iff_getElem?_ne_getElem?]
  intro i j hij hj heq
  have hi : regAt (a + i) = some rs[i] := by rw [hat i (by omega), List.getElem?_eq_getElem]
  have hj' : regAt (a + j) = some rs[i] := by rw [hat j (by omega), ← heq, List.getElem?_eq_getElem]
  have := regAt_injective hi hj'
  omega

theorem writes_map_fst {a q : Nat} {rs : List Reg} (h : regsFrom a q = some rs) (data : List Byte) :
    (writesOf rs data q).map Prod.fst = rs := by
  obtain ⟨hlen, _⟩ := regsFrom_eq_some_iff.mp h
  exact List.map_fst_zip (by simp [valuesOf, hlen])

theorem writeRegs_badCount {start qty : Word} {bc : Byte} (data : List Byte) (s : State)
    (h : qty.toNat = 0 ∨ 123 < qty.toNat ∨ bc.toNat ≠ 2 * qty.toNat) :
    writeRegs start qty bc data s = .exc .illegalValue := by
  refine if_pos ?_
  simp only [Config.writeQtyMax]
  omega

section
variable {start qty : Word} {bc : Byte} (data : List Byte) (s : State)
  (hcount : ¬(qty.toNat = 0 ∨ 123 < qty.toNat ∨ bc.toNat ≠ 2 * qty.toNat))
include hcount

theorem writeCount_good : ¬(qty.toNat < 1 ∨ Config.writeQtyMax < qty.toNat ∨ bc.toNat ≠ 2 * qty.toNat) := by
  simp only [Config.writeQtyMax]
  omega

theorem writeRegs_badRange (h : inOneBlock start qty.toNat = false) :
    writeRegs start qty bc data s = .exc .illegalAddress := by
  rw [writeRegs, if_neg (writeCount_good hcount), if_pos h]

/-- A range in one block is left to the classes of its registers and then to its values (R199). -/
theorem writeRegs_of_regsFrom {rs : List Reg} (h : inOneBlock start qty.toNat = true)
    (hrs : regsFrom start.toNat qty.toNat = some rs) :
    writeRegs start qty bc data s =
      if rs.any (fun r => r.cls == .ro) then .exc .illegalAddress
      else if (writesOf rs data qty.toNat).any (fun w => conv w.1 w.2 == .illegal) then .exc .illegalValue
      else .ok (be16bytes start ++ be16bytes qty) (applyWrites (writesOf rs data qty.toNat) s) := by
  rw [writeRegs, if_neg (writeCount_good hcount), if_neg (by simp [h]), hrs]
  rfl

theorem writeRegs_readOnly (h : inOneBlock start qty.toNat = true)
    (hro : ∃ k < qty.toNat, ∃ r, regAt (start.toNat + k) = some r ∧ r.cls = .ro) :
    writeRegs start qty bc data s = .exc .illegalAddress := by
  obtain ⟨rs, hrs⟩ := regsFrom_of_inOneBlock h
  obtain ⟨k, hk, r, hr, hcls⟩ := hro
  rw [writeRegs_of_regsFrom data s hcount h hrs, if_pos]
  exact List.any_eq_true.mpr ⟨r, (mem_regsFrom hrs).mpr ⟨k, hk, hr⟩, by simp [hcls]⟩

/-- The class check passes exactly when no register of the range is read-only. -/
theorem writeRegs_writable {rs : List Reg} (h : inOneBlock start qty.toNat = true)
    (hrs : regsFrom start.toNat qty.toNat = some rs)
    (hro : ∀ k < qty.toNat, ∀ r, regAt (start.toNat + k) = some r → r.cls ≠ .ro) :
    writeRegs start qty bc data s =
      if (writesOf rs data qty.toNat).any (fun w => conv w.1 w.2 == .illegal) then .exc .illegalValue
      else .ok (be16bytes start ++ be16bytes qty) (applyWrites (writesOf rs data qty.toNat) s) := by
  rw [writeRegs_of_regsFrom data s hcount h hrs, if_neg]
  simp only [List.any_eq_true, beq_iff_eq, not_exists, not_and]
  intro r hmem
  obtain ⟨k, hk, hr⟩ := (mem_regsFrom hrs).mp hmem
  exact hro k hk r hr

theorem writeRegs_badValue (h : inOneBlock start qty.toNat = true)
    (hro : ∀ k < qty.toNat, ∀ r, regAt (start.toNat + k) = some r → r.cls ≠ .ro)
    (hbad : ∃ k < qty.toNat, ∃ r, regAt (start.toNat + k) = some r ∧ conv r (be16 data (2 * k)) = .illegal) :
    writeRegs start qty bc data s = .exc .illegalValue := by
  obtain ⟨rs, hrs⟩ := regsFrom_of_inOneBlock h
  obtain ⟨k, hk, r, hr, hill⟩ := hbad
  rw [writeRegs_writable data s hcount h hrs hro, if_pos]
  exact List.any_eq_true.mpr ⟨(r, _), (mem_writes hrs data).mpr ⟨k, hk, hr, rfl⟩, by simp [hill]⟩

theorem writeRegs_ok {rs : List Reg} (h : inOneBlock start qty.toNat = true)
    (hrs : regsFrom start.toNat qty.toNat = some rs)
    (hacc : ∀ k < qty.toNat, ∀ r, regAt (start.toNat + k) = some r → accepts r (be16 data (2 * k))) :
    writeRegs start qty bc data s =
      .ok (be16bytes start ++ be16bytes qty) (applyWrites (writesOf rs data qty.toNat) s) := by
  rw [writeRegs_writable data s hcount h hrs fun k hk r hr => (hacc k hk r hr).1, if_neg]
  simp only [List.any_eq_true, beq_iff_eq, not_exists, not_and, Prod.forall]
  intro r v hmem
  obtain ⟨k, hk, hr, rfl⟩ := (mem_writes hrs data).mp hmem
  exact (hacc k hk r hr).conv_ne_illegal

end

/-- Settles O14: each register of the range is written once, with the value at its place in the data. -/
theorem writeMultipleStoresAll : Obligations.WriteMultipleStoresAll := by
  intro start qty bc data s hmin hmax hbc hblock hall
  obtain ⟨rs, hrs⟩ := regsFrom_of_inOneBlock hblock
  have hacc : ∀ k < qty.toNat, ∀ r, regAt (start.toNat + k) = some r → accepts r (be16 data (2 * k)) := by
    intro k hk r hr
    obtain ⟨r', hr', h⟩ := hall k hk
    exact Option.some.inj (hr'.symm.trans hr) ▸ h
  refine ⟨{ s with
      regs := (applyWrites (writesOf rs data qty.toNat) (countRequest s)).regs
      latches := (applyWrites (writesOf rs data qty.toNat) (countRequest s)).latches },
    ?_, rfl, fun k hk r hr hdiag => ?_, fun r hdiag => ?_⟩
  · rw [exec_writeMultipleRegisters, writeRegs_ok data _ (by omega) hblock hrs hacc,
      respond_ok (applyWrites_store ..), List.append_assoc]
  · have hconv : conv r (be16 data (2 * k)) = .store (storedValue r (be16 data (2 * k))) := by
      rw [conv_of_accepts (hacc k hk r hr), if_neg hdiag]
    have hnodup : ((writesOf rs data qty.toNat).map Prod.fst).Nodup := by
      rw [writes_map_fst hrs]
      exact regsFrom_nodup hrs
    obtain ⟨hreg, hlatch⟩ :=
      applyWrites_mem hnodup ((mem_writes hrs data).mpr ⟨k, hk, hr, rfl⟩) (countRequest s)
    rw [hconv] at hreg hlatch
    exact ⟨hreg, fun hl => by simpa [hl, Conv.value?] using hlatch⟩
  · refine applyWrites_other (fun w hmem hw => ?_) (countRequest s)
    obtain ⟨k, hk, hr, hv⟩ := (mem_writes hrs data).mp (show (r, w.2) ∈ _ from hw ▸ hmem)
    rw [hw, conv_of_roDiag (hdiag k hk hr)]
    rfl

/-- Settles O15, by the first check that fails (R199). -/
theorem writeMultipleExceptions : Obligations.WriteMultipleExceptions := by
  intro start qty bc data s
  refine ⟨fun hcount => ?_, fun hcount hblock => ?_, fun hcount hblock hro => ?_, fun hcount hblock hro hbad => ?_⟩
  · rw [exec_writeMultipleRegisters, writeRegs_badCount data _ hcount, respond_exc]
  · rw [exec_writeMultipleRegisters, writeRegs_badRange data _ hcount hblock, respond_exc]
  · rw [exec_writeMultipleRegisters, writeRegs_readOnly data _ hcount hblock hro, respond_exc]
  · have hwritable : ∀ k < qty.toNat, ∀ r, regAt (start.toNat + k) = some r → r.cls ≠ .ro :=
      fun k hk r hr hcls => hro ⟨k, hk, r, hr, hcls⟩
    obtain ⟨k, hk, r, hr, hbool, hv⟩ := hbad
    have hill : conv r (be16 data (2 * k)) = .illegal := conv_eq_illegal_iff.mpr ⟨hbool, hv⟩
    rw [exec_writeMultipleRegisters, writeRegs_badValue data _ hcount hblock hwritable ⟨k, hk, r, hr, hill⟩,
      respond_exc]

end Sys2Proof.Machine
end

section
/-! SUPPORT. What a tick has made of the latches by its end (41_register_access R210 to R214): how the channel that phases
A to D leave comes through phases E to H, and what the pulse registers hold. Settles O41 to O44. -/

namespace Sys2Proof.Machine

/-! ### Phases E to H of a tick, read from its end -/

theorem BeforeFrame.quiet {s t : State} (h : BeforeFrame s t) (hq : LinkQuiet s) : LinkQuiet t := by
  unfold BeforeFrame at h
  rw [h]
  exact hq

/-- Phase E reaches neither a channel nor the coordinator nor the snapshot. -/
theorem processFrame_ctrl {s t : State} (h : processFrame s = .next t) :
    t.channels = s.channels ∧ t.coord = s.coord ∧ t.snap = s.snap := by
  rw [processFrame_frame h]
  exact ⟨rfl, rfl, rfl⟩

theorem shutDown_of_inactive {q : Quad Channel} {i : Chan} (h : ¬(q.get i).Active) : (shutDown q).get i = q.get i := by
  rw [shutDown, Quad.get_ofFn, if_neg h]

section
variable {s t : State} (h : exec .tick s = .next t)
include h

/-- Without a communication timeout phases E to H keep the channels and the coordinator. -/
theorem tick_ctrl_of_quiet (hq : LinkQuiet s) :
    t.channels = (tickBeforeFrame s).channels ∧ t.coord = (tickBeforeFrame s).coord := by
  obtain ⟨e, he, rfl⟩ := tick_phases h
  have hquiet : LinkQuiet e := processFrame_quiet he ((tickBeforeFrame_before s).quiet hq)
  obtain ⟨hch, hco, _⟩ := processFrame_ctrl he
  rw [tickAfterFrame_channels, tickAfterFrame_coord, commTimeoutCheck_quiet hquiet]
  exact ⟨hch, hco⟩

/-- Phases E to H keep a channel that is not active, and its `RUN` output is off. -/
theorem tick_channel_of_inactive {i : Chan} (hi : ¬((tickBeforeFrame s).channels.get i).Active) :
    t.channels.get i = (tickBeforeFrame s).channels.get i ∧ t.runOut.get i = false := by
  obtain ⟨e, he, rfl⟩ := tick_phases h
  have hch := (processFrame_ctrl he).1
  have hkept : (tickAfterFrame e).channels.get i = (tickBeforeFrame s).channels.get i := by
    rcases tickAfterFrame_channel e i with ⟨hk, _⟩ | ⟨_, hk, _⟩
    · rw [hk, hch]
    · rw [hk, hch, shutDown_of_inactive hi]
  refine ⟨hkept, ?_⟩
  rw [← Bool.not_eq_true, tickAfterFrame_runOut, hkept]
  exact hi

theorem tick_stopped {i : Chan} (hi : ((tickBeforeFrame s).channels.get i).state = .stopped) :
    (t.channels.get i).state = .stopped ∧ t.runOut.get i = false := by
  obtain ⟨hch, hrun⟩ := tick_channel_of_inactive h (i := i) (by simp [Channel.Active, hi])
  exact ⟨by rw [hch, hi], hrun⟩

theorem tick_running (hq : LinkQuiet s) {i : Chan} (hi : ((tickBeforeFrame s).channels.get i).state = .running) :
    (t.channels.get i).state = .running ∧ t.runOut.get i = true := by
  have hch : (t.channels.get i).state = .running := by rw [(tick_ctrl_of_quiet h hq).1, hi]
  obtain ⟨e, _, rfl⟩ := tick_phases h
  exact ⟨hch, (tickAfterFrame_runOut e i).mpr (.inr hch)⟩

/-- An emergency stop that phases A to D leave lasts to the end of the tick, and no further snapshot is taken. -/
theorem tick_of_esActive (hes : (tickBeforeFrame s).coord.esActive = true) :
    t.coord.esActive = true ∧ t.snap = (tickBeforeFrame s).snap := by
  obtain ⟨e, he, rfl⟩ := tick_phases h
  obtain ⟨_, hco, hsnap⟩ := processFrame_ctrl he
  rw [← hco] at hes
  refine ⟨?_, by rw [tickAfterFrame_snap hes, hsnap]⟩
  rcases tickAfterFrame_channel e 0 with ⟨_, hk⟩ | ⟨_, _, hk⟩
  · rw [hk, hes]
  · exact hk

end

/-! ### The `EMERGENCY_STOP` latch (R210) -/

theorem consumeEmergencyStop_none {s : State} (h : s.latches.emergencyStop = none) : consumeEmergencyStop s = s := by
  simp only [consumeEmergencyStop, Latches.get, h]

theorem consumeEmergencyStop_of_inactive {s : State} {i : Chan} (h : ¬(s.channels.get i).Active) :
    (consumeEmergencyStop s).channels.get i = s.channels.get i := by
  rw [consumeEmergencyStop_channels]
  split
  · exact shutDown_of_inactive h
  · rfl

theorem Channel.cleared_of_not_faulted {c : Channel} (h : ¬c.Faulted) : c.cleared = c := by
  rw [Channel.cleared_eq, if_neg h]

theorem Channel.cleared_of_faulted {c : Channel} (h : c.Faulted) : c.cleared = c.entered .stopped := by
  rw [Channel.cleared_eq, if_pos h]

theorem Channel.cleared_inactive {c : Channel} (h : ¬c.Active) : ¬c.cleared.Active := by
  rw [Channel.cleared_eq]
  split
  · simp [Channel.Active, Channel.entered]
  · exact h

theorem Channel.stopRequested_inactive {c : Channel} : ¬c.stopRequested.Active := by
  unfold Channel.stopRequested
  split
  · simp [Channel.Active, Channel.enter]
  · next ha => exact fun hc => ha ((isActive_iff _).mpr hc)

/-- In an emergency stop no latch activates a channel (60_exceptions R387). -/
theorem Channel.latched_inactive {c : Channel} (h : ¬c.Active) (enabled : Bool) (l : ChannelLatches) :
    ¬(c.latched true enabled l).Active := by
  have hreset : ¬(if l.overloadReset = some 1 then c.cleared else c).Active := by
    split
    · exact Channel.cleared_inactive h
    · exact h
  unfold Channel.latched
  dsimp only
  split
  · simpa using hreset
  · split
    · exact Channel.stopRequested_inactive
    · exact hreset

theorem Channel.edged_inactive {c : Channel} (h : ¬c.Active) (edge : Bool) : ¬(c.edged edge).Active := by
  unfold Channel.edged
  split
  · simp [Channel.Active, Channel.entered]
  · exact h

/-- `update()` activates no channel: Running comes from Starting (42_channel_fsm R236). -/
theorem Channel.updated_inactive {c : Channel} (h : ¬c.Active) (n : Nat) : ¬(c.updated n).Active := by
  unfold Channel.updated
  split
  · next hs => exact absurd (.inl hs) h
  · simp [Channel.Active, Channel.withState]
  · exact h

section
variable {s : State} {v : Word} (h : s.latches.emergencyStop = some v) (hv : v ≠ 0)
include h hv

theorem consumeEmergencyStop_stops :
    (consumeEmergencyStop s).coord.esActive = true ∧ ∀ i, ¬((consumeEmergencyStop s).channels.get i).Active := by
  rw [consumeEmergencyStop_nonzero h hv]
  exact ⟨rfl, shutDown_inactive s.channels⟩

theorem consumeLatches_inactive (i : Chan) : ¬((consumeLatches s).channels.get i).Active := by
  obtain ⟨hes, hin⟩ := consumeEmergencyStop_stops h hv
  rw [(consumeLatches_spec s).1, hes]
  exact Channel.latched_inactive (hin i) _ _

theorem tickBeforeFrame_inactive (i : Chan) : ¬((tickBeforeFrame s).channels.get i).Active := by
  obtain ⟨hes, hin⟩ := consumeEmergencyStop_stops h hv
  rw [(tickBeforeFrame_spec s).1, hes]
  exact Channel.updated_inactive (Channel.edged_inactive (Channel.latched_inactive (hin i) _ _) _) _

end

/-- Settles O41: the latch is consumed first, and nothing later in the tick activates a channel in an emergency stop. -/
theorem emergencyLatchDominates : Obligations.EmergencyLatchDominates := by
  intro s v h hv
  obtain ⟨e, _, ht⟩ := execTick_eq s
  have hes : (tickBeforeFrame s).coord.esActive = true :=
    (tickBeforeFrame_spec s).2.1.trans (consumeEmergencyStop_stops h hv).1
  obtain ⟨htes, htsnap⟩ := tick_of_esActive ht hes
  refine ⟨_, ht, htes, fun i => ?_, ?_, fun hedge hq => ?_⟩
  · obtain ⟨hch, hrun⟩ := tick_channel_of_inactive ht (tickBeforeFrame_inactive h hv i)
    exact ⟨hch ▸ tickBeforeFrame_inactive h hv i, hrun⟩
  · rw [htsnap, tickBeforeFrame_snap, consumeEmergencyStop_nonzero h hv]
    rfl
  · have hstart : ∀ i, ((consumeLatches s).channels.get i).state ≠ .starting := fun i hs =>
      consumeLatches_inactive h hv i (.inl hs)
    rw [(tick_ctrl_of_quiet ht hq).2, tickBeforeFrame_code hedge hstart, consumeEmergencyStop_nonzero h hv]
    rfl

/-- Only `es_active` calls for the master state EmergencyStop (43_coordinator R282). -/
theorem masterFor_false_ne (q : Quad Channel) : masterFor false q ≠ .emergencyStop := by
  unfold masterFor
  rw [if_neg (by simp)]
  split
  · simp
  · split <;> simp

/-- Settles O42: phase A clears `es_active`, and `update()` derives the master state from it. -/
theorem emergencyLatchZeroClears : Obligations.EmergencyLatchZeroClears := by
  intro s h hfault hq
  obtain ⟨e, _, ht⟩ := execTick_eq s
  obtain ⟨_, hes, hmaster, _⟩ := tickBeforeFrame_spec s
  have hclear : (tickBeforeFrame s).coord.esActive = false := by
    rw [hes, consumeEmergencyStop_esActive, h]
    simp [hfault]
  refine ⟨_, ht, ?_⟩
  rw [(tick_ctrl_of_quiet ht hq).2, hmaster, hclear]
  exact ⟨rfl, masterFor_false_ne _⟩

/-! ### The latches of one channel (R212, R213) -/

/-- A channel after its `OVERLOAD_RESET` latch (R212). -/
def Channel.afterReset (c : Channel) (l : ChannelLatches) : Channel := if l.overloadReset = some 1 then c.cleared else c

theorem Channel.latched_eq (c : Channel) (es enabled : Bool) (l : ChannelLatches) :
    c.latched es enabled l =
      if l.startStop = some 1 then
        if enabled = true ∧ es = false then (c.afterReset l).started else c.afterReset l
      else if l.startStop = some 0 then (c.afterReset l).stopRequested
      else c.afterReset l := rfl

theorem Channel.afterReset_of_not_faulted {c : Channel} (h : ¬c.Faulted) (l : ChannelLatches) :
    c.afterReset l = c := by
  unfold Channel.afterReset
  rw [Channel.cleared_of_not_faulted h, ite_self]

/-- The `OVERLOAD_RESET` latch leaves the channel Stopped: it was, or the latch resets it. -/
def Channel.StoppedByReset (c : Channel) (l : ChannelLatches) : Prop :=
  c.state = .stopped ∨ c.Faulted ∧ l.overloadReset = some 1

theorem Channel.StoppedByReset.inactive {c : Channel} {l : ChannelLatches} (h : c.StoppedByReset l) : ¬c.Active := by
  rcases h with hs | ⟨hs | hs, _⟩ <;> simp [Channel.Active, hs]

theorem Channel.StoppedByReset.afterReset {c : Channel} {l : ChannelLatches} (h : c.StoppedByReset l) :
    (c.afterReset l).state = .stopped ∧ (c.afterReset l).inhibit = c.inhibit := by
  rcases h with hs | ⟨hf, hl⟩
  · rw [Channel.afterReset_of_not_faulted (by simp [Channel.Faulted, hs])]
    exact ⟨hs, rfl⟩
  · rw [Channel.afterReset, if_pos hl, Channel.cleared_of_faulted hf]
    exact ⟨rfl, rfl⟩

theorem Channel.stopRequested_of_stopped {c : Channel} (h : c.state = .stopped) : c.stopRequested = c := by
  simp [Channel.stopRequested, h, ChannelState.isActive]

theorem Channel.updated_of_stopped {c : Channel} (h : c.state = .stopped) (n : Nat) : c.updated n = c := by
  simp [Channel.updated, h]

/-- A start that is latched and may pass makes a channel Running within the tick (70_reset_and_hazards R440). -/
theorem Channel.StoppedByReset.runs {c : Channel} {l : ChannelLatches} (h : c.StoppedByReset l)
    (hstart : l.startStop = some 1) (hinhibit : c.inhibit = false) (n : Nat) :
    ((c.latched false true l).updated n).state = .running := by
  obtain ⟨hs, hi⟩ := h.afterReset
  rw [Channel.latched_eq, if_pos hstart, if_pos ⟨rfl, rfl⟩, Channel.started, if_pos hs]
  simp [Channel.updated, Channel.enter, hi, hinhibit]

/-- Without a start that may pass, the channel is still Stopped at the end of the tick. -/
theorem Channel.StoppedByReset.stays {c : Channel} {l : ChannelLatches} (h : c.StoppedByReset l) {es enabled : Bool}
    (hblocked : l.startStop ≠ some 1 ∨ enabled = false ∨ es = true) (n : Nat) :
    ((c.latched es enabled l).updated n).state = .stopped := by
  obtain ⟨hs, _⟩ := h.afterReset
  have hlatched : c.latched es enabled l = c.afterReset l := by
    rw [Channel.latched_eq, Channel.stopRequested_of_stopped hs]
    rcases hblocked with hstart | hen | hes
    · rw [if_neg hstart, ite_self]
    · simp [hen]
    · simp [hes]
  rw [hlatched, Channel.updated_of_stopped hs, hs]

/-- A latched stop of an active channel is complete within the tick. -/
theorem Channel.stops_of_active {c : Channel} (h : c.Active) {l : ChannelLatches} (hstop : l.startStop = some 0)
    (es enabled : Bool) (n : Nat) : ((c.latched es enabled l).updated n).state = .stopped := by
  have hf : ¬c.Faulted := by rcases h with hs | hs <;> simp [Channel.Faulted, hs]
  have hlatched : c.latched es enabled l = c.enter .stopping := by
    rw [Channel.latched_eq, Channel.afterReset_of_not_faulted hf, Channel.stopRequested,
      if_pos ((isActive_iff _).mpr h)]
    simp [hstop]
  rw [hlatched]
  rfl

theorem tickBeforeFrame_channel {s : State} {i : Chan} (h : s.ovlEdge.get i = false) :
    (tickBeforeFrame s).channels.get i =
      (((consumeEmergencyStop s).channels.get i).latched (consumeEmergencyStop s).coord.esActive s.enabled
        (s.latches.channels.get i)).updated s.params.startTimeoutTicks := by
  rw [(tickBeforeFrame_spec s).1, h]
  rfl

theorem enabled_eq_true {s : State} (h : s.regs.globals.globalEnable ≠ 0) : s.enabled = true := decide_eq_true h

theorem enabled_eq_false {s : State} (h : s.regs.globals.globalEnable = 0) : s.enabled = false :=
  decide_eq_false (not_not_intro h)

/-- A latched start of a channel that is Stopped once its reset latch is consumed, where nothing stands against it. -/
theorem tick_starts {s t : State} (ht : exec .tick s = .next t) {i : Chan}
    (h : (s.channels.get i).StoppedByReset (s.latches.channels.get i)) (hedge : s.ovlEdge.get i = false)
    (hstart : (s.latches.channels.get i).startStop = some 1) (hen : s.regs.globals.globalEnable ≠ 0)
    (hinhibit : (s.channels.get i).inhibit = false) (hes : s.coord.esActive = false)
    (hnone : s.latches.emergencyStop = none) (hq : LinkQuiet s) :
    (t.channels.get i).state = .running ∧ t.runOut.get i = true := by
  refine tick_running ht hq ?_
  rw [tickBeforeFrame_channel hedge, consumeEmergencyStop_none hnone, hes, enabled_eq_true hen]
  exact h.runs hstart hinhibit _

/-- Settles O43: phase A by the latch, phase C to the end of the transition. -/
theorem startStopLatchActs : Obligations.StartStopLatchActs := by
  intro s i hnone hedge
  obtain ⟨e, _, ht⟩ := execTick_eq s
  have hch := tickBeforeFrame_channel hedge
  rw [consumeEmergencyStop_none hnone] at hch
  refine ⟨_, ht, fun hstart hen hes hs hinhibit hq => ?_, fun _ hblocked hs => ?_, fun hstop hactive => ?_⟩
  · exact tick_starts ht (.inl hs) hedge hstart hen hinhibit hes hnone hq
  · refine tick_stopped ht ?_
    rw [hch]
    exact Channel.StoppedByReset.stays (.inl hs) (.inr (hblocked.imp_left enabled_eq_false)) _
  · refine tick_stopped ht ?_
    rw [hch]
    exact Channel.stops_of_active hactive hstop ..

/-! ### The pulse registers (R211, R212) -/

section
variable {p : State → Prop} {s : State}

theorem TickClosed.latchStep (c : TickClosed p) (i : Chan) (hs : p s) : p (latchStep i s) :=
  c.consumeStartStop i (c.consumeOverloadReset i hs)

/-- What phase A has left, phases B and C keep. -/
theorem TickClosed.afterLatches (c : TickClosed p) (hs : p (consumeLatches s)) : p (Machine.tickBeforeReflect s) :=
  c.ctrl (updateAll_log _).toSnap (forChannels_keeps (p := p) (fun i _ hu => c.consumeEdge i hu) hs)

end

theorem consumeEmergencyStop_latches (s : State) :
    (consumeEmergencyStop s).latches = { s.latches with emergencyStop := none } := by
  unfold consumeEmergencyStop
  simp only [Latches.get]
  rcases h : s.latches.emergencyStop with _ | v
  · exact Latches.clear_emergencyStop h
  · dsimp only
    split
    · rw [emergencyStop_shutdown]
      rfl
    · show (clearEmergencyStop s).1.latches.set (.glob .emergencyStop) none = _
      rw [clearEmergencyStop_log s]
      rfl

theorem consumeSystemReset_latches (s : State) :
    (consumeSystemReset s).latches = { s.latches with systemReset := none } := by
  unfold consumeSystemReset
  simp only [Latches.get]
  rcases h : s.latches.systemReset with _ | v
  · exact Latches.clear_systemReset h
  · dsimp only
    split <;> rfl

/-- A `SYSTEM_RESET` pulse has been carried out (R211). -/
def SystemResetDone (s : State) : Prop :=
  s.regs.globals.systemReset = 0 ∧ s.wdt.flag = false ∧ s.stats = Stats.reset

theorem tickClosed_systemResetDone : TickClosed SystemResetDone where
  ctrl hf hs := by
    unfold SnapFrame at hf
    rw [hf]
    exact hs
  latch _ hs := hs
  pulse hr hs := by
    rcases hr with rfl | ⟨i, rfl⟩
    · exact ⟨rfl, hs.2⟩
    · exact hs
  stats hs := ⟨hs.1, rfl, rfl⟩
  edges _ hs := hs

theorem SystemResetDone.reflect {s : State} (h : SystemResetDone s) : SystemResetDone (reflect s) := h

theorem consumeSystemReset_done {s : State} {v : Word} (h : s.latches.systemReset = some v) (hv : v ≠ 0) :
    SystemResetDone (consumeSystemReset s) := by
  simp only [consumeSystemReset, Latches.get, h, ne_eq, hv, not_false_eq_true, if_true]
  exact ⟨rfl, rfl, rfl⟩

theorem tickBeforeFrame_systemResetDone {s : State} {v : Word} (h : s.latches.systemReset = some v) (hv : v ≠ 0) :
    SystemResetDone (tickBeforeFrame s) := by
  have hA : SystemResetDone (consumeLatches s) := by
    rw [consumeLatches_eq]
    refine forChannels_keeps (p := SystemResetDone) (f := latchStep)
      (fun i _ hu => tickClosed_systemResetDone.latchStep i hu) (consumeSystemReset_done ?_ hv)
    rw [consumeEmergencyStop_latches, h]
  rw [tickBeforeFrame_eq]
  exact (tickClosed_systemResetDone.afterLatches hA).reflect

/-- An `OVERLOAD_RESET(i)` pulse has been carried out (R212). -/
def OverloadResetDone (i : Chan) (s : State) : Prop := s.regs.get (.chan i .overloadReset) = 0

theorem tickClosed_overloadResetDone (i : Chan) : TickClosed (OverloadResetDone i) where
  ctrl hf hs := by
    unfold SnapFrame at hf
    rw [hf]
    exact hs
  latch _ hs := hs
  pulse _ hs := (RegStore.get_set ..).trans (ite_eq_left_iff.mpr fun _ => hs)
  stats hs := hs
  edges _ hs := hs

/-- Phase D writes the status sub-block of a channel and keeps its control registers (70_reset_and_hazards R433). -/
theorem OverloadResetDone.reflect {i : Chan} {s : State} (h : OverloadResetDone i s) : OverloadResetDone i (reflect s) :=
  (congrArg ChannelRegs.overloadReset (Quad.get_ofFn _ i)).trans h

theorem consumeOverloadReset_done {i : Chan} {s : State} (h : (s.latches.channels.get i).overloadReset = some 1) :
    OverloadResetDone i (consumeOverloadReset i s) := by
  simp only [consumeOverloadReset, Latches.get, h, if_true, OverloadResetDone, State.setLatch_regs, State.setReg_regs]
  exact (RegStore.get_set ..).trans (if_pos rfl)

/-- A pass brings about what its step on channel `i` does, if the steps before keep the reason and the steps after the
result. -/
theorem forChannels_reaches {p q : State → Prop} {f : Chan → State → State} {i : Chan}
    (before : ∀ j s, j ≠ i → q s → q (f j s)) (here : ∀ s, q s → p (f i s)) (after : ∀ j s, p s → p (f j s))
    {s : State} (hs : q s) : p (forChannels f s) := by
  match i with
  | 0 => exact after 3 _ (after 2 _ (after 1 _ (here _ hs)))
  | 1 => exact after 3 _ (after 2 _ (here _ (before 0 _ (by decide) hs)))
  | 2 => exact after 3 _ (here _ (before 1 _ (by decide) (before 0 _ (by decide) hs)))
  | 3 => exact here _ (before 2 _ (by decide) (before 1 _ (by decide) (before 0 _ (by decide) hs)))

theorem tickBeforeFrame_overloadResetDone {i : Chan} {s : State}
    (h : (s.latches.channels.get i).overloadReset = some 1) : OverloadResetDone i (tickBeforeFrame s) := by
  have closed := tickClosed_overloadResetDone i
  have hA : OverloadResetDone i (consumeLatches s) := by
    rw [consumeLatches_eq]
    refine forChannels_reaches (f := latchStep) (i := i)
      (q := fun u => (u.latches.channels.get i).overloadReset = some 1) (fun j u hj hu => ?_)
      (fun u hu => closed.consumeStartStop i (consumeOverloadReset_done hu)) (fun j _ hu => closed.latchStep j hu) ?_
    · rw [(latchStep_spec j u).2.2.2, Quad.get_set, if_neg hj.symm, hu]
    · rw [consumeSystemReset_latches, consumeEmergencyStop_latches, h]
  rw [tickBeforeFrame_eq]
  exact (closed.afterLatches hA).reflect

/-- A tick that finds no frame is its phases A to D and F to H. -/
theorem tick_of_no_frame {s t : State} (h : exec .tick s = .next t) (hq : s.rxq = []) :
    t = tickAfterFrame (tickBeforeFrame s) := by
  obtain ⟨e, he, rfl⟩ := tick_phases h
  have hempty : processFrame (tickBeforeFrame s) = .next (tickBeforeFrame s) := by
    unfold processFrame
    rw [tickBeforeFrame_rxq, hq]
  rw [Host.Outcome.next.inj (he.symm.trans hempty)]

/-- Settles O44: the pulse registers by phase A, the channels by the order of the two latches. -/
theorem pulseRegistersAreConsumed : Obligations.PulseRegistersAreConsumed := by
  intro s
  obtain ⟨e, _, ht⟩ := execTick_eq s
  refine ⟨_, ht, fun hrxq => ?_, fun i hfault hreset hedge => ?_⟩
  · rw [tick_of_no_frame ht hrxq]
    refine ⟨fun v hlatch hv => ?_, fun i hlatch => ?_⟩
    · obtain ⟨hreg, hflag, hstats⟩ := tickBeforeFrame_systemResetDone hlatch hv
      refine ⟨by rw [tickAfterFrame_regs, hreg], by rw [tickAfterFrame_flag, hflag], fun hq => ?_⟩
      rw [tickAfterFrame_stats, commTimeoutCheck_quiet ((tickBeforeFrame_before s).quiet hq), hstats]
    · rw [tickAfterFrame_regs]
      exact tickBeforeFrame_overloadResetDone hlatch
  · have hstopped : (s.channels.get i).StoppedByReset (s.latches.channels.get i) := .inr ⟨hfault, hreset⟩
    refine ⟨fun hblocked => ?_, fun hstart hen hinhibit hes hnone hq => ?_⟩
    · refine tick_stopped ht ?_
      rw [tickBeforeFrame_channel hedge, consumeEmergencyStop_of_inactive hstopped.inactive]
      exact hstopped.stays (hblocked.imp_right fun hen => .inl (enabled_eq_false hen)) _
    · exact tick_starts ht hstopped hedge hstart hen hinhibit hes hnone hq

end Sys2Proof.Machine
end

section
/-! SUPPORT. What can activate a channel (42_channel_fsm R241): of the functions by which an operation changes a channel,
only `chStart` makes one active, and it starts from Stopped. Settles O51. -/

namespace Sys2Proof.Machine

/-! ### One channel -/

/-- A start is accepted only from Stopped (42_channel_fsm R231). -/
theorem Channel.stopped_of_started_active {c : Channel} (h : ¬c.Active) (ha : c.started.Active) : c.state = .stopped := by
  by_contra hs
  rw [Channel.started, if_neg hs] at ha
  exact h ha

theorem Channel.afterReset_inactive {c : Channel} (h : ¬c.Active) (l : ChannelLatches) : ¬(c.afterReset l).Active := by
  unfold Channel.afterReset
  split
  · exact Channel.cleared_inactive h
  · exact h

/-- The latches activate a channel only by a latched start that `GLOBAL_ENABLE` lets pass (41_register_access R213). -/
theorem Channel.start_of_latched_active {c : Channel} (h : ¬c.Active) {es enabled : Bool} {l : ChannelLatches}
    (ha : (c.latched es enabled l).Active) : l.startStop = some 1 ∧ enabled = true := by
  have hreset := Channel.afterReset_inactive h l
  rw [Channel.latched_eq] at ha
  split at ha
  · next hstart =>
    split at ha
    · next hpass => exact ⟨hstart, hpass.1⟩
    · exact absurd ha hreset
  · split at ha
    · exact absurd ha Channel.stopRequested_inactive
    · exact absurd ha hreset

/-! ### An operation other than a tick -/

/-- A start word that names channel `c`. -/
def StartWordFor (c : Chan) (i : Instr) : Prop :=
  (∃ idx : Byte, i = .unitStart idx ∧ idx.toNat = c.val) ∨
    ∃ mask : BitVec 4, i = .coordStart mask ∧ mask.getLsbD c.val = true

/-- The two start words are the only changes that can end in an active channel. -/
theorem ChannelChange.start_of_active {s t : State} {c : Chan} {i : Instr} (k : ChannelChange s t c i)
    (h : ¬(s.channels.get c).Active) (ha : (t.channels.get c).Active) :
    StartWordFor c i ∧ s.coord.esActive = false ∧ (s.channels.get c).state = .stopped := by
  cases k with
  | unitStart idx hidx hes ht =>
    exact ⟨.inl ⟨idx, rfl, hidx⟩, hes, Channel.stopped_of_started_active h (ht ▸ ha)⟩
  | coordStart mask hbit hes ht =>
    exact ⟨.inr ⟨mask, rfl, hbit⟩, hes, Channel.stopped_of_started_active h (ht ▸ ha)⟩
  | keep _ ht => exact absurd (ht ▸ ha) h
  | inhibit _ b ht =>
    rw [ht] at ha
    exact absurd ha h
  | confirm _ ht =>
    rw [ht] at ha
    exact absurd ha h
  | stop _ ht => exact absurd (ht ▸ ha) Channel.stopRequested_inactive
  | force _ ht => exact absurd (ht ▸ ha) Channel.stopRequested_inactive
  | upd _ ht => exact absurd (ht ▸ ha) (Channel.updated_inactive h _)
  | fault _ ov ht =>
    rw [ht] at ha
    cases ov <;> simp [Channel.Active, Channel.entered] at ha
  | clear idx _ ht => exact absurd (ht ▸ ha) (Channel.cleared_inactive h)
  | cold ht => simp [ht, Channel.Active, Channel.reset] at ha
  | wdt _ ht => simp [ht, Channel.Active, Channel.reset] at ha

/-! ### A tick -/

/-- Past phase A no phase activates a channel: edges and timeouts only take it out of service, and `update()` makes
Running only what was Starting (70_reset_and_hazards R430, 42_channel_fsm R236). -/
theorem tick_start_of_active {s t : State} {c : Chan} (ht : exec .tick s = .next t)
    (h : ¬(s.channels.get c).Active) (ha : (t.channels.get c).Active) :
    (s.latches.channels.get c).startStop = some 1 ∧ s.regs.globals.globalEnable ≠ 0 := by
  have hlatched : (((consumeEmergencyStop s).channels.get c).latched (consumeEmergencyStop s).coord.esActive s.enabled
      (s.latches.channels.get c)).Active := by
    by_contra hn
    have hbefore : ¬((tickBeforeFrame s).channels.get c).Active := by
      rw [(tickBeforeFrame_spec s).1]
      exact Channel.updated_inactive (Channel.edged_inactive hn _) _
    exact hbefore ((tick_channel_of_inactive ht hbefore).1 ▸ ha)
  rw [consumeEmergencyStop_of_inactive h] at hlatched
  obtain ⟨hstart, hen⟩ := Channel.start_of_latched_active h hlatched
  exact ⟨hstart, of_decide_eq_true hen⟩

/-- `START_STOP(0)` latched at 1 after a reset, with `GLOBAL_ENABLE` set. -/
def startLatched : State := (State.reset.setReg (.glob .globalEnable) 1).setLatch (.chan 0 .startStop) (some 1)

/-- The hypotheses of `tick_start_of_active` are met: the latch activates channel 0. -/
theorem startLatched_activates :
    ∃ t, exec .tick startLatched = .next t ∧ ¬(startLatched.channels.get 0).Active ∧ (t.channels.get 0).Active := by
  obtain ⟨t, ht, hstart, _⟩ := startStopLatchActs startLatched 0 rfl rfl
  exact ⟨t, ht, by decide, .inr (hstart rfl (by decide) rfl rfl rfl (.inl rfl)).1⟩

/-! ### Every operation -/

/-- Settles O51: a tick by its latches, every other operation by what it may do to one channel. -/
theorem noAutomaticStart : Obligations.NoAutomaticStart := by
  intro i s t c ht h ha
  by_cases htick : i = .tick
  · subst htick
    exact .inr ⟨rfl, tick_start_of_active ht h ha⟩
  · exact .inl ((exec_channel ht c htick).start_of_active h ha)

end Sys2Proof.Machine
end

section
/-! SUPPORT. What each command word leaves and answers (43_coordinator R283 to R300): the request on a channel or a mask
as one counted transition, and from it the result of the word. Settles O19 to O30. -/

namespace Sys2Proof.Machine

/-! ### The words that take a channel index (R283) -/

theorem onChannel_of_toNat_eq {n : Nat} {idx : BitVec n} {i : Chan} (h : idx.toNat = i.val)
    (f : Chan → State → State × Bool) (s : State) : onChannel idx f s = f i s := by
  simp only [onChannel, chanOf_eq_some h]

theorem onChannel_of_three_lt {n : Nat} {idx : BitVec n} (h : 3 < idx.toNat) (f : Chan → State → State × Bool)
    (s : State) : onChannel idx f s = (s, false) := by
  simp only [onChannel, chanOf_eq_none h]

/-- A word on a channel that exists leaves what its request leaves, and answers what it answers. -/
theorem next_onChannel {n : Nat} {idx : BitVec n} {i : Chan} (h : idx.toNat = i.val)
    (f : Chan → State → State × Bool) (s : State) :
    (.next (answered (onChannel idx f s)) : Host.Outcome State Fault Refusal) = .next ((f i s).1.returns (f i s).2) := by
  rw [onChannel_of_toNat_eq h]
  rfl

theorem next_onChannel_outOfRange {n : Nat} {idx : BitVec n} (h : 3 < idx.toNat) (f : Chan → State → State × Bool)
    (s : State) :
    (.next (answered (onChannel idx f s)) : Host.Outcome State Fault Refusal) = .next (s.returns false) := by
  rw [onChannel_of_three_lt h]
  rfl

/-- Settles O19: such an index names no channel. -/
theorem outOfRangeIndexAnswersFalse : Obligations.OutOfRangeIndexAnswersFalse :=
  ⟨fun _ s h =>
    ⟨next_onChannel_outOfRange h requestUnitStart s, next_onChannel_outOfRange h requestUnitStop s,
      next_onChannel_outOfRange h faultReturn s, next_onChannel_outOfRange h chConfirm s⟩,
    fun b _ s h =>
    ⟨next_onChannel_outOfRange h (fun i t => (faultEntry i b t, true)) s,
      next_onChannel_outOfRange h (fun i t => chSetInhibit i b t) s⟩⟩

/-! ### The requests as counted transitions -/

/-- A move that writes no fault code is a transition once the mask is recomputed. -/
theorem Moved.recompute_of_code {s t : State} {q : Quad Channel} (h : Moved s q t)
    (hc : t.coord.faultCode = s.coord.faultCode) : recomputeActive t = s.transitioned q s.coord.masterState := by
  rw [h.recompute, hc]
  rfl

/-- With an exact mask, a channel that stays as it is leaves the whole state as it is. -/
theorem transitioned_set_self {s : State} (h : MaskExact s) (i : Chan) :
    s.transitioned (s.channels.set i (s.channels.get i)) s.coord.masterState = s := by
  rw [Quad.set_get_self, transitioned_self h]

theorem chStart_answer (i : Chan) (s : State) :
    (chStart i s).2 =
      decide ((s.channels.get i).state = .stopped ∨ (s.channels.get i).state = .starting ∨
        (s.channels.get i).state = .running) := by
  unfold chStart
  rw [ch_eq]
  cases (s.channels.get i).state <;> rfl

theorem chStop_answer (i : Chan) (s : State) : (chStop i s).2 = true := by
  unfold chStop
  split <;> rfl

/-- R286. -/
theorem requestUnitStart_eq (i : Chan) (s : State) :
    requestUnitStart i s =
      if s.coord.esActive = true then (s, false)
      else
        (s.transitioned (s.channels.set i (s.channels.get i).started) s.coord.masterState,
          decide ((s.channels.get i).state = .stopped ∨ (s.channels.get i).state = .starting ∨
            (s.channels.get i).state = .running)) := by
  unfold requestUnitStart
  dsimp only
  rw [(chStart_moved i s).recompute_of_code (chStart_code i s), chStart_answer]

/-- R287. -/
theorem requestUnitStop_eq (i : Chan) (s : State) :
    requestUnitStop i s =
      (s.transitioned (s.channels.set i (s.channels.get i).stopRequested) s.coord.masterState, true) := by
  unfold requestUnitStop
  dsimp only
  rw [(chStop_moved i s).recompute_of_code (chStop_code i s), chStop_answer]

/-- R284. -/
theorem requestCoordinatedStart_eq (m : BitVec 4) (s : State) :
    requestCoordinatedStart m s =
      if m = 0 ∨ s.coord.esActive = true then (s, false)
      else
        (s.transitioned
            (Quad.ofFn fun i => if maskBit m i = true then (s.channels.get i).started else s.channels.get i)
            .coordinatedStart,
          true) := by
  have hmoved := forChannels_if_moved (g := fun _ _ c => c.started) m chStart_moved s
  have hcode := forChannels_if_code m chStart_code s
  unfold requestCoordinatedStart
  dsimp only
  rw [setMaster_recompute, hmoved.settle, hcode]
  rfl

/-- R285. -/
theorem requestCoordinatedStop_eq (m : BitVec 4) (s : State) :
    requestCoordinatedStop m s =
      (s.transitioned
          (Quad.ofFn fun i =>
            if maskBit (m &&& s.coord.activeMask) i = true then (s.channels.get i).stopRequested
            else s.channels.get i)
          s.coord.masterState,
        true) := by
  have hmoved := forChannels_if_moved (g := fun _ _ c => c.stopRequested) (m &&& s.coord.activeMask) chStop_moved s
  unfold requestCoordinatedStop
  dsimp only
  rw [hmoved.recompute_of_code (forChannels_if_code _ chStop_code s)]

/-! ### Starts and stops (R284 to R287) -/

theorem Channel.started_of_stopped {c : Channel} (h : c.state = .stopped) : c.started = c.entered .starting := by
  rw [Channel.started, if_pos h, Channel.enter_eq]

theorem Channel.started_of_not_stopped {c : Channel} (h : c.state ≠ .stopped) : c.started = c := by
  rw [Channel.started, if_neg h]

theorem Channel.stopRequested_eq (c : Channel) : c.stopRequested = if c.Active then c.entered .stopping else c := by
  unfold Channel.stopRequested
  simp only [isActive_iff, Channel.enter_eq]

/-- Settles O20, by `es_active` and whether the channel is Stopped. -/
theorem unitStartResult : Obligations.UnitStartResult := by
  intro idx i s hidx hmask
  refine (next_onChannel hidx requestUnitStart s).trans (congrArg _ ?_)
  rw [requestUnitStart_eq]
  by_cases hes : s.coord.esActive = true
  · rw [if_pos hes, if_pos hes]
  · rw [if_neg hes, if_neg hes]
    by_cases hst : (s.channels.get i).state = .stopped
    · simp [hst, Channel.started_of_stopped hst]
    · simp [hst, Channel.started_of_not_stopped hst, transitioned_self hmask]

/-- Settles O21, by whether the channel is active. -/
theorem unitStopResult : Obligations.UnitStopResult := by
  intro idx i s hidx hmask
  refine (next_onChannel hidx requestUnitStop s).trans (congrArg _ ?_)
  rw [requestUnitStop_eq, Channel.stopRequested_eq]
  split
  · rfl
  · rw [transitioned_set_self hmask]

/-- Settles O22: the pass over the mask starts exactly the Stopped channels of it. -/
theorem coordStartResult : Obligations.CoordStartResult := by
  intro mask s
  have hstart : ∀ i, (if maskBit mask i = true then (s.channels.get i).started else s.channels.get i) =
      if mask.getLsbD i.val = true ∧ (s.channels.get i).state = .stopped then (s.channels.get i).entered .starting
      else s.channels.get i := fun i => by
    rw [ite_and]
    rfl
  refine congrArg Host.Outcome.next (?_ : answered (requestCoordinatedStart mask s) = _)
  rw [requestCoordinatedStart_eq]
  simp only [hstart]
  split <;> rfl

/-- With an exact mask, the intersection of R285 selects the active channels of the operand. -/
theorem MaskExact.maskBit_and {s : State} (h : MaskExact s) (m : BitVec 4) (i : Chan) :
    maskBit (m &&& s.coord.activeMask) i = true ↔ m.getLsbD i.val = true ∧ (s.channels.get i).Active := by
  rw [← h i, maskBit, maskBit, BitVec.getLsbD_and, Bool.and_eq_true]

/-- Settles O23: the pass stops exactly the active channels of the mask. -/
theorem coordStopResult : Obligations.CoordStopResult := by
  intro mask s hmask
  have hstop : ∀ i,
      (if maskBit (mask &&& s.coord.activeMask) i = true then (s.channels.get i).stopRequested
        else s.channels.get i) =
      if mask.getLsbD i.val = true ∧ (s.channels.get i).Active then (s.channels.get i).entered .stopping
      else s.channels.get i := fun i => by
    have hbit := hmask.maskBit_and mask i
    by_cases h : mask.getLsbD i.val = true ∧ (s.channels.get i).Active
    · rw [if_pos (hbit.mpr h), if_pos h, Channel.stopRequested_eq, if_pos h.2]
    · rw [if_neg (mt hbit.mp h), if_neg h]
  refine congrArg Host.Outcome.next (?_ : answered (requestCoordinatedStop mask s) = _)
  rw [requestCoordinatedStop_eq]
  simp only [hstop]
  rfl

/-! ### Faults and the emergency stop (R291 to R295) -/

/-- Settles O24: fault entry, from every state. -/
theorem reportFaultResult : Obligations.ReportFaultResult := by
  intro ov idx i s hidx
  refine (next_onChannel hidx (fun i t => (faultEntry i ov t, true)) s).trans ?_
  rw [faultEntry_eq]
  rfl

/-- Settles O25: emergency-stop entry, with the fault code of the command port. -/
theorem emergencyStopResult : Obligations.EmergencyStopResult := by
  intro s
  refine congrArg Host.Outcome.next (?_ : answered ((emergencyStop s).setFaultCode 5, true) = _)
  rw [emergencyStop_shutdown]
  rfl

/-- With an exact mask, a new master state is a transition that moves no channel. -/
theorem setMaster_of_exact {s : State} (h : MaskExact s) (m : MasterState) :
    setMaster m s = s.transitioned s.channels m := by
  have hsettle := (Moved.refl s).settle m
  rwa [recomputeActive_of_exact h] at hsettle

/-- Settles O26: the return from the emergency stop, which keeps the mask exact. -/
theorem clearEstopResult : Obligations.ClearEstopResult := by
  intro s hmask
  have hexact : MaskExact (setEsActive false s) := hmask
  refine congrArg Host.Outcome.next (?_ : answered (clearEmergencyStop s) = _)
  rw [clearEmergencyStop_eq, setMaster_of_exact hexact]
  split <;> rfl

/-- Settles O27, by whether the channel is faulted. -/
theorem unitResetResult : Obligations.UnitResetResult := by
  intro idx i s hidx hmask
  refine (next_onChannel hidx faultReturn s).trans (congrArg _ ?_)
  rw [faultReturn_eq]
  by_cases hf : (s.channels.get i).Faulted
  · rw [if_pos hf, Channel.cleared_of_faulted hf, decide_eq_true hf]
  · rw [if_neg hf, Channel.cleared_of_not_faulted hf, transitioned_set_self hmask, decide_eq_false hf]

/-! ### The inhibit flag and the confirmation (R296, R297) -/

/-- Settles O28: the flag is the only field written. -/
theorem setInhibitResult : Obligations.SetInhibitResult :=
  fun b _ _ s hidx => next_onChannel hidx (fun i t => chSetInhibit i b t) s

theorem chConfirm_eq (i : Chan) (s : State) :
    chConfirm i s =
      if (s.channels.get i).state = .starting then
        (s.setChannel i { s.channels.get i with confirmed := true }, true)
      else (s, false) := by
  unfold chConfirm
  rw [ch_eq]
  cases (s.channels.get i).state <;> rfl

/-- Settles O29, by whether the channel is Starting. -/
theorem confirmStartResult : Obligations.ConfirmStartResult := by
  intro idx i s hidx
  refine (next_onChannel hidx chConfirm s).trans (congrArg _ ?_)
  rw [chConfirm_eq]
  split <;> rfl

/-! ### The update (R300) -/

/-- The next update takes channel `i` from Starting to Fault: it has waited too long (42_channel_fsm R236). -/
abbrev State.TimesOut (s : State) (i : Chan) : Prop :=
  (s.channels.get i).state = .starting ∧
    ((s.channels.get i).afterUpdate s.params.startTimeoutTicks).state = .fault

/-- The update of one channel leaves the others alone, so a pass judges each as it found it. -/
theorem forChannels_chUpdate_code (s : State) :
    (forChannels chUpdate s).coord.faultCode = if ∃ i, s.TimesOut i then 3 else s.coord.faultCode := by
  have hp : ∀ i u, (chUpdate i u).params = u.params := fun i u => by rw [chUpdate_ctrl i u]
  have hpass : (forChannels chUpdate s).coord.faultCode =
      if s.TimesOut 3 then 3 else if s.TimesOut 2 then 3 else if s.TimesOut 1 then 3
      else if s.TimesOut 0 then 3 else s.coord.faultCode := by
    simp only [forChannels, chUpdate_code, chUpdate_channels, hp, updated_eq_afterUpdate]
    rfl
  rw [hpass]
  by_cases hex : ∃ i, s.TimesOut i
  · rw [if_pos hex]
    obtain ⟨i, hi⟩ := hex
    match i with
    | 0 | 1 | 2 | 3 => rw [if_pos hi] <;> simp only [ite_self]
  · rw [if_neg hex]
    simp only [not_exists.mp hex, if_false]

/-- Settles O30: the pass over the channels, with the fault code of a start that waited too long. -/
theorem updateAdvancesEveryChannel : Obligations.UpdateAdvancesEveryChannel := by
  intro s
  refine congrArg Host.Outcome.next (?_ : answered (updateAll s, true) = _)
  rw [updateAll_eq, forChannels_chUpdate_code]
  simp only [updated_eq_afterUpdate, Quad.get_ofFn]
  rfl

end Sys2Proof.Machine
end

section
/-! SUPPORT. What an operation keeps of the coordinator (43_coordinator R293, R302): the count grows, and an emergency
stop lasts unless the operation is its return or a block reset. Settles O52 and O53. -/

namespace Sys2Proof.Machine

/-! ### Keeping the coordinator -/

/-- Nothing is counted down, and an emergency stop is not ended. -/
structure CoordKept (s t : State) : Prop where
  count : s.coord.transitionCount.toNat ≤ t.coord.transitionCount.toNat
  emergency : s.coord.esActive = true → t.coord.esActive = true

theorem CoordKept.of_coord {s t : State} (h : t.coord = s.coord) : CoordKept s t :=
  ⟨by rw [h], by rw [h]; exact id⟩

theorem CoordKept.refl (s : State) : CoordKept s s := .of_coord rfl

theorem CoordKept.trans {s t u : State} (h : CoordKept s t) (k : CoordKept t u) : CoordKept s u :=
  ⟨h.count.trans k.count, k.emergency ∘ h.emergency⟩

/-- A transition counts up. -/
theorem transitioned_kept (s : State) (q : Quad Channel) (m : MasterState) : CoordKept s (s.transitioned q m) :=
  ⟨le_countedUp .., id⟩

theorem shutdown_kept (s : State) (code : Word) : CoordKept s (s.shutdown code) :=
  ⟨le_countedUp .., fun _ => rfl⟩

theorem faultEntry_kept (i : Chan) (ov : Bool) (s : State) : CoordKept s (faultEntry i ov s) := by
  rw [faultEntry_eq]
  exact ⟨le_countedUp .., id⟩

theorem faultReturn_kept (i : Chan) (s : State) : CoordKept s (faultReturn i s).1 := by
  rw [faultReturn_eq]
  exact transitioned_kept ..

theorem requestUnitStart_kept (i : Chan) (s : State) : CoordKept s (requestUnitStart i s).1 := by
  rw [requestUnitStart_eq]
  split
  · exact .refl s
  · exact transitioned_kept ..

theorem requestUnitStop_kept (i : Chan) (s : State) : CoordKept s (requestUnitStop i s).1 := by
  rw [requestUnitStop_eq]
  exact transitioned_kept ..

theorem requestCoordinatedStart_kept (m : BitVec 4) (s : State) : CoordKept s (requestCoordinatedStart m s).1 := by
  rw [requestCoordinatedStart_eq]
  split
  · exact .refl s
  · exact transitioned_kept ..

theorem requestCoordinatedStop_kept (m : BitVec 4) (s : State) : CoordKept s (requestCoordinatedStop m s).1 := by
  rw [requestCoordinatedStop_eq]
  exact transitioned_kept ..

theorem chConfirm_kept (i : Chan) (s : State) : CoordKept s (chConfirm i s).1 := by
  rw [chConfirm_eq]
  split <;> exact .of_coord rfl

theorem updateAll_kept (s : State) : CoordKept s (updateAll s) := by
  rw [updateAll_eq]
  exact ⟨le_countedUp .., id⟩

/-! ### The return from an emergency stop only counts up (R294) -/

theorem setMaster_count (m : MasterState) (s : State) :
    s.coord.transitionCount.toNat ≤ (setMaster m s).coord.transitionCount.toNat := by
  unfold setMaster
  split
  · exact le_rfl
  · rw [State.emit_coord, State.countTransition_coord, satIncU32_eq]
    exact le_countedUp ..

theorem clearEmergencyStop_count (s : State) :
    s.coord.transitionCount.toNat ≤ (clearEmergencyStop s).1.coord.transitionCount.toNat := by
  rw [clearEmergencyStop_eq]
  split
  · exact le_rfl
  · exact setMaster_count (masterFor false s.channels) (setEsActive false s)

/-! ### A tick past its `EMERGENCY_STOP` latch -/

theorem consumeEmergencyStop_count (s : State) :
    s.coord.transitionCount.toNat ≤ (consumeEmergencyStop s).coord.transitionCount.toNat := by
  unfold consumeEmergencyStop
  split
  · exact le_rfl
  · dsimp only
    split
    · rw [emergencyStop_shutdown]
      exact (shutdown_kept s 5).count
    · exact clearEmergencyStop_count s

theorem consumeOverloadReset_kept (i : Chan) (s : State) : CoordKept s (consumeOverloadReset i s) := by
  unfold consumeOverloadReset
  split
  · exact .refl s
  · dsimp only
    split
    · exact (faultReturn_kept i s).trans (.of_coord rfl)
    · exact .of_coord rfl

theorem consumeStartStop_kept (i : Chan) (s : State) : CoordKept s (consumeStartStop i s) := by
  unfold consumeStartStop
  split
  · exact .refl s
  · dsimp only
    split
    · split
      · exact (requestUnitStart_kept i s).trans (.of_coord rfl)
      · exact .of_coord rfl
    · split
      · exact (requestUnitStop_kept i s).trans (.of_coord rfl)
      · exact .of_coord rfl

theorem consumeEdge_kept (i : Chan) (s : State) : CoordKept s (consumeEdge i s) := by
  unfold consumeEdge
  split
  · obtain ⟨hcount, hes⟩ := faultEntry_kept i true { s with ovlEdge := s.ovlEdge.set i false }
    exact ⟨hcount, hes⟩
  · exact .refl s

theorem forChannels_kept {f : Chan → State → State} (h : ∀ i s, CoordKept s (f i s)) (s : State) :
    CoordKept s (forChannels f s) :=
  forChannels_keeps (p := CoordKept s) (fun i u hu => hu.trans (h i u)) (.refl s)

theorem consumeLatches_kept (s : State) : CoordKept (consumeEmergencyStop s) (consumeLatches s) :=
  (CoordKept.of_coord (consumeSystemReset_ctrl _).2).trans
    (forChannels_kept (fun i u => (consumeOverloadReset_kept i u).trans (consumeStartStop_kept i _)) _)

theorem commTimeoutCheck_kept (s : State) : CoordKept s (commTimeoutCheck s) := by
  rcases commTimeoutCheck_cases s with e | ⟨_, _, _, e⟩
  · rw [e]
    exact .refl s
  · rw [e]
    exact ⟨le_countedUp .., fun _ => rfl⟩

/-- Of the phases of a tick only the `EMERGENCY_STOP` latch can end an emergency stop (41_register_access R210). -/
theorem tick_kept {s t : State} (h : exec .tick s = .next t) : CoordKept (consumeEmergencyStop s) t := by
  obtain ⟨e, he, rfl⟩ := tick_phases h
  have hbefore : CoordKept (consumeEmergencyStop s) (tickBeforeFrame s) :=
    (((consumeLatches_kept s).trans (forChannels_kept consumeEdge_kept _)).trans (updateAll_kept _)).trans
      (.of_coord rfl)
  have hframe : CoordKept (tickBeforeFrame s) e := .of_coord (processFrame_ctrl he).2.1
  exact (hbefore.trans hframe).trans ((commTimeoutCheck_kept e).trans (.of_coord rfl))

/-! ### Every operation -/

theorem onChannel_kept {n : Nat} (idx : BitVec n) {f : Chan → State → State × Bool} {s : State}
    (h : ∀ i, CoordKept s (f i s).1) : CoordKept s (answered (onChannel idx f s)) := by
  unfold onChannel
  split
  · exact (h _).trans (.of_coord rfl)
  · exact .of_coord rfl

/-- The other four operations are the tick, the clear of an emergency stop and the two resets. -/
theorem exec_kept {i : Instr} {s t : State} (h : exec i s = .next t) (htick : i ≠ .tick) (hclear : i ≠ .clearEstop)
    (hpower : i ≠ .powerOn) (hwdt : i ≠ .wdtExpire) : CoordKept s t := by
  cases i with
  | readHoldingRegisters a q => exact .of_coord (exec_wire_answered rfl h).coord
  | writeSingleRegister a v => exact .of_coord (exec_wire_answered rfl h).coord
  | writeMultipleRegisters a q b d => exact .of_coord (exec_wire_answered rfl h).coord
  | illegalFunction f => exact .of_coord (exec_wire_answered rfl h).coord
  | tick => exact absurd rfl htick
  | clearEstop => exact absurd rfl hclear
  | powerOn => exact absurd rfl hpower
  | wdtExpire => exact absurd rfl hwdt
  | coordStart m =>
    obtain rfl := Host.Outcome.next.inj h
    exact (requestCoordinatedStart_kept m s).trans (.of_coord rfl)
  | coordStop m =>
    obtain rfl := Host.Outcome.next.inj h
    exact (requestCoordinatedStop_kept m s).trans (.of_coord rfl)
  | unitStart idx =>
    obtain rfl := Host.Outcome.next.inj h
    exact onChannel_kept idx fun c => requestUnitStart_kept c s
  | unitStop idx =>
    obtain rfl := Host.Outcome.next.inj h
    exact onChannel_kept idx fun c => requestUnitStop_kept c s
  | reportFault ov idx =>
    obtain rfl := Host.Outcome.next.inj h
    exact onChannel_kept idx fun c => faultEntry_kept c ov s
  | emergencyStop =>
    obtain rfl := Host.Outcome.next.inj h
    rw [emergencyStop_shutdown]
    exact (shutdown_kept s 5).trans (.of_coord rfl)
  | unitReset idx =>
    obtain rfl := Host.Outcome.next.inj h
    exact onChannel_kept idx fun c => faultReturn_kept c s
  | setInhibit b idx =>
    obtain rfl := Host.Outcome.next.inj h
    exact onChannel_kept idx fun _ => .of_coord rfl
  | confirmStart idx =>
    obtain rfl := Host.Outcome.next.inj h
    exact onChannel_kept idx fun c => chConfirm_kept c s
  | update =>
    obtain rfl := Host.Outcome.next.inj h
    exact (updateAll_kept s).trans (.of_coord rfl)
  | frame b =>
    simp only [exec, execFrame] at h
    split at h <;> cases h <;> exact .of_coord rfl
  | reservedCommand | txDone | advance | overloadEdge =>
    cases h
    exact .of_coord rfl

/-- Settles O53: the clear and the `EMERGENCY_STOP` latch only count up, and everything else keeps the coordinator. -/
theorem transitionCountNeverDecreases : Obligations.TransitionCountNeverDecreases := by
  intro i s t ht hpower hwdt
  by_cases htick : i = .tick
  · subst htick
    exact (consumeEmergencyStop_count s).trans (tick_kept ht).count
  · by_cases hclear : i = .clearEstop
    · subst hclear
      obtain rfl := Host.Outcome.next.inj ht
      exact clearEmergencyStop_count s
    · exact (exec_kept ht htick hclear hpower hwdt).count

/-! ### During an emergency stop (R293) -/

section
variable {s : State} (hes : s.coord.esActive = true)
include hes

theorem exec_coordStart_in_emergency (mask : BitVec 4) : exec (.coordStart mask) s = .next (s.returns false) := by
  rw [coordStartResult mask s, if_pos (.inr hes)]

theorem exec_unitStart_in_emergency (idx : Byte) : exec (.unitStart idx) s = .next (s.returns false) := by
  have hreject : onChannel idx requestUnitStart s = (s, false) := by
    unfold onChannel
    split
    · rw [requestUnitStart_eq, if_pos hes]
    · rfl
  exact congrArg (fun r => Host.Outcome.next (answered r)) hreject

/-- A latched start is consumed and reported, enabled or not. -/
theorem consumeStartStop_in_emergency {i : Chan} (h : (s.latches.channels.get i).startStop = some 1) :
    (consumeStartStop i s).channels = s.channels ∧ (consumeStartStop i s).coord = s.coord := by
  have hreject : requestUnitStart i s = (s, false) := by rw [requestUnitStart_eq, if_pos hes]
  unfold consumeStartStop
  simp only [Latches.get, h, hreject, if_true, ite_self]
  exact ⟨rfl, rfl⟩

theorem derive_in_emergency : derive s = .emergencyStop := if_pos hes

/-- The `EMERGENCY_STOP` latch ends it by a zero on a healthy link (41_register_access R210). -/
theorem consumeEmergencyStop_ends (h : (consumeEmergencyStop s).coord.esActive = false) :
    s.latches.emergencyStop = some 0 ∧ s.link.commFault = false := by
  rw [consumeEmergencyStop_esActive] at h
  cases hl : s.latches.emergencyStop with
  | none => simp [hl, hes] at h
  | some v =>
    by_cases hv : v = 0
    · subst hv
      exact ⟨rfl, by simpa [hl, hes] using h⟩
    · rw [hl] at h
      cases (if_pos hv).symm.trans h

/-- What can have ended it. -/
theorem exec_ends_emergency {i : Instr} {t : State} (ht : exec i s = .next t) (h : t.coord.esActive = false) :
    (i = .clearEstop ∧ s.link.commFault = false) ∨
      (i = .tick ∧ s.latches.emergencyStop = some 0 ∧ s.link.commFault = false) ∨ i = .powerOn ∨
      (i = .wdtExpire ∧ s.params.wdtTimeoutMs < (s.nowMs - s.wdt.lastKickMs).toNat) := by
  have hended : ¬t.coord.esActive = true := by simp [h]
  by_cases htick : i = .tick
  · subst htick
    have hlatch := mt (tick_kept ht).emergency hended
    exact .inr (.inl ⟨rfl, consumeEmergencyStop_ends hes (by simpa using hlatch)⟩)
  by_cases hclear : i = .clearEstop
  · subst hclear
    refine .inl ⟨rfl, ?_⟩
    by_contra hfault
    obtain rfl := Host.Outcome.next.inj ht
    rw [clearEmergencyStop_eq, if_pos (.inr (by simpa using hfault))] at hended
    exact hended hes
  by_cases hpower : i = .powerOn
  · exact .inr (.inr (.inl hpower))
  by_cases hwdt : i = .wdtExpire
  · subst hwdt
    refine .inr (.inr (.inr ⟨rfl, ?_⟩))
    by_contra hearly
    rw [exec_wdtExpire_early (by omega)] at ht
    cases ht
    exact hended hes
  exact absurd ((exec_kept ht htick hclear hpower hwdt).emergency hes) hended

end

/-- Settles O52: each start is rejected, and only the operations that may end the emergency stop do. -/
theorem emergencyStopDominates : Obligations.EmergencyStopDominates := fun _ hes =>
  ⟨exec_coordStart_in_emergency hes, exec_unitStart_in_emergency hes, fun _ => consumeStartStop_in_emergency hes,
    derive_in_emergency hes, fun _ _ => exec_ends_emergency hes⟩

end Sys2Proof.Machine
end

section
/-! SUPPORT. The safety supervisor (44_safety_supervisor R332, R353, R355): when phase F fires, what clears a fault, and
when the `RUN` outputs are off. Settles O46, O50 and O55. -/

namespace Sys2Proof.Machine

/-! ### The communication timeout (R332, R333) -/

/-- The condition of phase F is strict: elapsed time equal to `COMM_TIMEOUT_MS` is not a timeout. -/
theorem commTimedOut_iff (s : State) :
    commTimedOut s = true ↔ s.link.commArmed = true ∧ s.link.commFault = false ∧
      s.params.commTimeoutMs < (s.nowMs - s.link.lastValidMs).toNat := by
  rw [commTimedOut, elapsedMs, Bool.and_eq_true, Bool.and_eq_true, Bool.not_eq_true', decide_eq_true_eq, and_assoc]

/-- Settles O46: a quiet link fails the condition of phase F, and where it holds phase F is the safety shutdown. -/
theorem commTimeoutShutsDown : Obligations.CommTimeoutShutsDown := by
  refine fun s => ⟨commTimeoutCheck_quiet, fun harmed hfault hsilent => ?_⟩
  rw [commTimeoutCheck, if_pos ((commTimedOut_iff s).mpr ⟨harmed, hfault, hsilent⟩), emergencyStop_shutdown]
  rfl

/-! ### The outputs (R353, 70_reset_and_hazards R436) -/

/-- The invariant leaves no channel active in an emergency stop. -/
theorem CoordInv.inactive {s : State} (h : CoordInv s) (hes : s.coord.esActive = true) (i : Chan) :
    ¬(s.channels.get i).Active := (h.legal i).2 hes

/-- Phase G makes `RUN` follow the channels, and the tick leaves them with the invariant. -/
theorem tick_outputsOff {s t : State} (h : CoordInv s) (ht : exec .tick s = .next t)
    (hes : t.coord.esActive = true) : OutputsOff t := by
  intro i
  have hidle := (exec_keeps_coordInv h ht).inactive hes i
  obtain ⟨e, _, rfl⟩ := tick_phases ht
  rw [← Bool.not_eq_true, tickAfterFrame_runOut]
  exact hidle

theorem outputsOff_resetWith (p : Params) : OutputsOff (State.resetWith p) := fun i => by
  match i with
  | 0 | 1 | 2 | 3 => rfl

theorem coldReset_outputsOff (s : State) : OutputsOff (coldReset s) := outputsOff_resetWith s.params

theorem watchdogReset_outputsOff (s : State) : OutputsOff (watchdogReset s) := outputsOff_resetWith s.params

theorem exec_wdtExpire_expired {s : State} (h : s.params.wdtTimeoutMs < (s.nowMs - s.wdt.lastKickMs).toNat) :
    exec .wdtExpire s = .next (watchdogEntry s) :=
  if_pos ((watchdogExpired_iff s).mpr h)

/-- Settles O55: a tick by the invariant it keeps, the two resets by the cold values of the outputs. -/
theorem outputsOffInEmergencyStop : Obligations.OutputsOffInEmergencyStop := by
  refine fun s t h => ⟨tick_outputsOff h, fun ht => ?_, fun hexpired ht => ?_⟩
  · obtain rfl := Host.Outcome.next.inj ht
    exact coldReset_outputsOff s
  · rw [exec_wdtExpire_expired hexpired] at ht
    obtain rfl := Host.Outcome.next.inj ht
    exact watchdogReset_outputsOff _

/-! ### A faulted channel (R355) -/

theorem Channel.faulted_entered (c : Channel) (ov : Bool) :
    (c.entered (if ov then .overload else .fault)).Faulted := by
  cases ov <;> simp [Channel.Faulted, Channel.entered]

section
variable {c : Channel} (h : c.Faulted)
include h

theorem Channel.Faulted.not_active : ¬c.Active := by
  rcases h with hs | hs <;> simp [Channel.Active, hs]

/-- A start is rejected (42_channel_fsm R231). -/
theorem Channel.Faulted.started_eq : c.started = c :=
  Channel.started_of_not_stopped (by rcases h with hs | hs <;> simp [hs])

theorem Channel.Faulted.stopRequested_eq : c.stopRequested = c := by
  rw [Channel.stopRequested_eq, if_neg h.not_active]

/-- No elapsed time clears a fault (42_channel_fsm R236). -/
theorem Channel.Faulted.updated_eq (n : Nat) : c.updated n = c := by
  rcases h with hs | hs <;> simp [Channel.updated, hs]

/-- Of the latches only `OVERLOAD_RESET` moves it (41_register_access R212, R213). -/
theorem Channel.Faulted.latched_eq {l : ChannelLatches} (hl : l.overloadReset ≠ some 1) (es enabled : Bool) :
    c.latched es enabled l = c := by
  have hreset : c.afterReset l = c := if_neg hl
  rw [Channel.latched_eq, hreset, h.started_eq, h.stopRequested_eq]
  simp only [ite_self]

/-- An overload edge only puts it into Overload (70_reset_and_hazards R432). -/
theorem Channel.Faulted.edged (edge : Bool) : (c.edged edge).Faulted := by
  cases edge
  · exact h
  · exact c.faulted_entered true

end

/-- An operation other than a tick that takes a channel out of its fault: its reset or a block reset. -/
theorem ChannelChange.reset_of_unfaulted {s t : State} {c : Chan} {i : Instr} (k : ChannelChange s t c i)
    (h : (s.channels.get c).Faulted) (hn : ¬(t.channels.get c).Faulted) :
    (∃ idx : Byte, i = .unitReset idx ∧ idx.toNat = c.val) ∨ i = .powerOn ∨
      (i = .wdtExpire ∧ s.params.wdtTimeoutMs < (s.nowMs - s.wdt.lastKickMs).toNat) := by
  cases k with
  | clear idx hidx _ => exact .inl ⟨idx, rfl, hidx⟩
  | cold _ => exact .inr (.inl rfl)
  | wdt hexpired _ => exact .inr (.inr ⟨rfl, hexpired⟩)
  | keep _ ht => exact absurd (ht ▸ h) hn
  | inhibit _ b ht =>
    rw [ht] at hn
    exact absurd h hn
  | confirm _ ht =>
    rw [ht] at hn
    exact absurd h hn
  | coordStart _ _ _ ht => exact absurd (ht.trans h.started_eq ▸ h) hn
  | unitStart _ _ _ ht => exact absurd (ht.trans h.started_eq ▸ h) hn
  | stop _ ht => exact absurd (ht.trans h.stopRequested_eq ▸ h) hn
  | force _ ht => exact absurd (ht.trans h.stopRequested_eq ▸ h) hn
  | upd _ ht => exact absurd (ht.trans (h.updated_eq _) ▸ h) hn
  | fault _ ov ht => exact absurd (ht ▸ Channel.faulted_entered _ ov) hn

/-- A tick takes a channel out of its fault only by the `OVERLOAD_RESET` latch: no edge and no elapsed time does, and a
shutdown forces active channels only. -/
theorem tick_keeps_faulted {s t : State} {c : Chan} (ht : exec .tick s = .next t) (h : (s.channels.get c).Faulted)
    (hl : (s.latches.channels.get c).overloadReset ≠ some 1) : (t.channels.get c).Faulted := by
  have hbefore : ((tickBeforeFrame s).channels.get c).Faulted := by
    rw [(tickBeforeFrame_spec s).1, consumeEmergencyStop_of_inactive h.not_active, h.latched_eq hl,
      (h.edged _).updated_eq]
    exact h.edged _
  rw [(tick_channel_of_inactive ht hbefore.not_active).1]
  exact hbefore

/-- Channel 0 in Overload, with its `OVERLOAD_RESET` latched at 1. -/
def overloadResetLatched : State :=
  (State.reset.setChannel 0 ⟨.overload, 0, false, false⟩).setLatch (.chan 0 .overloadReset) (some 1)

/-- The latch that `tick_keeps_faulted` excludes does take the channel out of its fault. -/
theorem overloadResetLatched_clears :
    ∃ t, exec .tick overloadResetLatched = .next t ∧ (overloadResetLatched.channels.get 0).Faulted ∧
      ¬(t.channels.get 0).Faulted := by
  obtain ⟨t, ht, _, hreset⟩ := pulseRegistersAreConsumed overloadResetLatched
  obtain ⟨hclear, _⟩ := hreset 0 (.inl rfl) rfl rfl
  obtain ⟨hstopped, _⟩ := hclear (.inl (by decide))
  exact ⟨t, ht, .inl rfl, by simp [Channel.Faulted, hstopped]⟩

/-! ### The fault code (R355) -/

/-- The block holds the code of a fault (10_state R33). -/
def FaultCodeSet (s : State) : Prop := s.coord.faultCode ≠ 0

theorem FaultCodeSet.congr {s t : State} (h : FaultCodeSet s) (hc : t.coord.faultCode = s.coord.faultCode) :
    FaultCodeSet t := by
  rw [FaultCodeSet, hc]
  exact h

theorem faultCodeSet_shutdown (s : State) {code : Word} (hc : code ≠ 0) : FaultCodeSet (s.shutdown code) := hc

theorem faultCodeSet_faultEntry (i : Chan) (ov : Bool) (s : State) : FaultCodeSet (faultEntry i ov s) := by
  rw [faultEntry_eq]
  cases ov
  · exact (by decide : (2 : Word) ≠ 0)
  · exact (by decide : (1 : Word) ≠ 0)

section
variable {s : State} (h : FaultCodeSet s)
include h

theorem FaultCodeSet.faultReturn (i : Chan) : FaultCodeSet (faultReturn i s).1 := by
  rw [faultReturn_eq]
  exact h.congr rfl

theorem FaultCodeSet.requestCoordinatedStart (m : BitVec 4) : FaultCodeSet (requestCoordinatedStart m s).1 := by
  rw [requestCoordinatedStart_eq]
  split <;> exact h.congr rfl

theorem FaultCodeSet.requestCoordinatedStop (m : BitVec 4) : FaultCodeSet (requestCoordinatedStop m s).1 := by
  rw [requestCoordinatedStop_eq]
  exact h.congr rfl

/-- The return from an emergency stop keeps the code of its cause. -/
theorem FaultCodeSet.clearEmergencyStop : FaultCodeSet (clearEmergencyStop s).1 := by
  rw [clearEmergencyStop_eq]
  split
  · exact h
  · obtain ⟨_, hcode, _⟩ := setMaster_coord (masterFor false s.channels) (setEsActive false s)
    exact h.congr hcode

theorem FaultCodeSet.chConfirm (i : Chan) : FaultCodeSet (chConfirm i s).1 := by
  rw [chConfirm_eq]
  split <;> exact h.congr rfl

theorem FaultCodeSet.updateAll : FaultCodeSet (updateAll s) := by
  have hcode : (Machine.updateAll s).coord.faultCode = if ∃ i, s.TimesOut i then 3 else s.coord.faultCode := by
    rw [updateAll_eq, ← forChannels_chUpdate_code]
    rfl
  rw [FaultCodeSet, hcode]
  split
  · decide
  · exact h

theorem FaultCodeSet.consumeEmergencyStop : FaultCodeSet (consumeEmergencyStop s) := by
  unfold Sys2Proof.Machine.consumeEmergencyStop
  split
  · exact h
  · dsimp only
    split
    · rw [emergencyStop_shutdown]
      exact (faultCodeSet_shutdown s (by decide)).congr rfl
    · exact h.clearEmergencyStop.congr rfl

theorem FaultCodeSet.consumeEdge (i : Chan) : FaultCodeSet (consumeEdge i s) := by
  unfold Sys2Proof.Machine.consumeEdge
  split
  · exact faultCodeSet_faultEntry i true _
  · exact h

theorem FaultCodeSet.commTimeoutCheck : FaultCodeSet (commTimeoutCheck s) := by
  rcases commTimeoutCheck_cases s with e | ⟨_, _, _, e⟩ <;> rw [e]
  · exact h
  · exact (faultCodeSet_shutdown _ (by decide)).congr rfl

theorem FaultCodeSet.tickBeforeFrame : FaultCodeSet (tickBeforeFrame s) := by
  have hA : FaultCodeSet (consumeLatches s) := h.consumeEmergencyStop.congr (consumeLatches_code s).1
  have hB : FaultCodeSet (forChannels Machine.consumeEdge (consumeLatches s)) :=
    forChannels_keeps (fun i _ hu => hu.consumeEdge i) hA
  exact hB.updateAll.congr rfl

theorem FaultCodeSet.tick {t : State} (ht : exec .tick s = .next t) : FaultCodeSet t := by
  obtain ⟨e, he, rfl⟩ := tick_phases ht
  obtain ⟨_, hco, _⟩ := processFrame_ctrl he
  have hE : FaultCodeSet e := h.tickBeforeFrame.congr (by rw [hco])
  exact hE.commTimeoutCheck.congr rfl

theorem FaultCodeSet.onChannel {n : Nat} (idx : BitVec n) {f : Chan → State → State × Bool}
    (hf : ∀ i, FaultCodeSet (f i s).1) : FaultCodeSet (answered (onChannel idx f s)) := by
  unfold Sys2Proof.Machine.onChannel
  split
  · exact (hf _).congr rfl
  · exact h.congr rfl

/-- No operation but a block reset clears the fault code. -/
theorem exec_keeps_faultCodeSet {i : Instr} {t : State} (ht : exec i s = .next t) (hpower : i ≠ .powerOn)
    (hwdt : i ≠ .wdtExpire) : FaultCodeSet t := by
  cases i with
  | readHoldingRegisters | writeSingleRegister | writeMultipleRegisters | illegalFunction =>
    exact h.congr (by rw [(exec_wire_answered rfl ht).coord])
  | tick => exact h.tick ht
  | powerOn => exact absurd rfl hpower
  | wdtExpire => exact absurd rfl hwdt
  | coordStart m =>
    obtain rfl := Host.Outcome.next.inj ht
    exact (h.requestCoordinatedStart m).congr rfl
  | coordStop m =>
    obtain rfl := Host.Outcome.next.inj ht
    exact (h.requestCoordinatedStop m).congr rfl
  | unitStart idx =>
    obtain rfl := Host.Outcome.next.inj ht
    exact h.onChannel idx fun c => h.congr (requestUnitStart_code c s).1
  | unitStop idx =>
    obtain rfl := Host.Outcome.next.inj ht
    exact h.onChannel idx fun c => h.congr (requestUnitStop_code c s).1
  | reportFault ov idx =>
    obtain rfl := Host.Outcome.next.inj ht
    exact h.onChannel idx fun c => faultCodeSet_faultEntry c ov s
  | emergencyStop =>
    obtain rfl := Host.Outcome.next.inj ht
    rw [emergencyStop_shutdown]
    exact (faultCodeSet_shutdown s (by decide)).congr rfl
  | clearEstop =>
    obtain rfl := Host.Outcome.next.inj ht
    exact h.clearEmergencyStop.congr rfl
  | unitReset idx =>
    obtain rfl := Host.Outcome.next.inj ht
    exact h.onChannel idx h.faultReturn
  | setInhibit b idx =>
    obtain rfl := Host.Outcome.next.inj ht
    exact h.onChannel idx fun _ => h.congr rfl
  | confirmStart idx =>
    obtain rfl := Host.Outcome.next.inj ht
    exact h.onChannel idx h.chConfirm
  | update =>
    obtain rfl := Host.Outcome.next.inj ht
    exact h.updateAll.congr rfl
  | frame b =>
    simp only [exec, execFrame] at ht
    split at ht <;> cases ht <;> exact h.congr rfl
  | reservedCommand | txDone | advance | overloadEdge =>
    cases ht
    exact h.congr rfl

end

/-- The operations that can have cleared the fault code. -/
theorem exec_clears_faultCode {i : Instr} {s t : State} (ht : exec i s = .next t) (h : s.coord.faultCode ≠ 0)
    (hzero : t.coord.faultCode = 0) :
    i = .powerOn ∨ (i = .wdtExpire ∧ s.params.wdtTimeoutMs < (s.nowMs - s.wdt.lastKickMs).toNat) := by
  by_cases hpower : i = .powerOn
  · exact .inl hpower
  by_cases hwdt : i = .wdtExpire
  · subst hwdt
    refine .inr ⟨rfl, ?_⟩
    by_contra hearly
    rw [exec_wdtExpire_early (by omega)] at ht
    cases ht
    exact h hzero
  exact absurd hzero (exec_keeps_faultCodeSet h ht hpower hwdt)

/-- Settles O50: the channel by what each operation may do to it, the code by what every operation keeps. -/
theorem faultedChannelLeavesOnlyByReset : Obligations.FaultedChannelLeavesOnlyByReset := by
  refine ⟨fun i s t c ht h hn => ?_, fun i s t => exec_clears_faultCode⟩
  by_cases htick : i = .tick
  · subst htick
    by_cases hl : (s.latches.channels.get c).overloadReset = some 1
    · exact .inr (.inl ⟨rfl, hl⟩)
    · exact absurd (tick_keeps_faulted ht h hl) hn
  · rcases (exec_channel ht c htick).reset_of_unfaulted h hn with hreset | hblock
    · exact .inl hreset
    · exact .inr (.inr hblock)

end Sys2Proof.Machine
end

section
/-! SUPPORT. Every operation has a next state (60_exceptions R375): the one fault of the model is the reply
`inconsistent`, and no reply to a request is that one. Settles O47. -/

namespace Sys2Proof.Machine

/-! ### The requests, the tick and the watchdog -/

/-- A request meets no register without a slot. -/
theorem exec_request_next (req : Request) (s : State) : ∃ t, exec req.toInstr s = .next t := by
  obtain ⟨t, ht, _⟩ := runRequest_answered req s
  exact ⟨t, (exec_toInstr req s).trans ht⟩

/-- A tick completes because its phase E does. -/
theorem exec_tick_next (s : State) : ∃ t, exec .tick s = .next t := by
  obtain ⟨e, _, htick⟩ := execTick_eq s
  exact ⟨tickAfterFrame e, htick⟩

theorem exec_wdtExpire_next (s : State) : ∃ t, exec .wdtExpire s = .next t := by
  rcases Nat.lt_or_ge s.params.wdtTimeoutMs (s.nowMs - s.wdt.lastKickMs).toNat with hexpired | hearly
  · exact ⟨_, exec_wdtExpire_expired hexpired⟩
  · exact ⟨s, exec_wdtExpire_early hearly⟩

/-! ### Every operation -/

theorem exec_next (i : Instr) (s : State) : ∃ t, exec i s = .next t := by
  cases i with
  | readHoldingRegisters start qty => exact exec_request_next (.read start qty) s
  | writeSingleRegister a v => exact exec_request_next (.write1 a v) s
  | writeMultipleRegisters start qty bc data => exact exec_request_next (.writeN start qty bc data) s
  | illegalFunction fc => exact exec_request_next (.illegal fc) s
  | frame bytes => exact ⟨_, frameQueuedOrCounted bytes s⟩
  | tick => exact exec_tick_next s
  | wdtExpire => exact exec_wdtExpire_next s
  | coordStart | coordStop | unitStart | unitStop | reportFault | emergencyStop | clearEstop | unitReset
  | setInhibit | confirmStart | update | reservedCommand => exact ⟨_, rfl⟩
  | txDone | advance | overloadEdge | powerOn => exact ⟨_, rfl⟩

/-- Settles O47: a step runs one operation, and every operation has a next state. -/
theorem everyOperationHasANextState : Obligations.EveryOperationHasANextState :=
  ⟨exec_next, fun s => exec_next (decodeInput (nextInput s).1) (nextInput s).2⟩

end Sys2Proof.Machine
end

section
/-! SUPPORT. A tick read from end to end (70_reset_and_hazards R430 to R437): the time and the output calls through its
eight phases, the edges and latches it leaves, and a channel with an overload edge. Settles O37 to O40. -/

namespace Sys2Proof.Machine

/-! ### The phases (R430) -/

/-- Settles O37: phase E is the only phase that could stop, and it always leaves a state. -/
theorem tickRunsThePhasesInOrder : Obligations.TickRunsThePhasesInOrder := execTick_eq

/-- What phase F can reach (44_safety_supervisor R332): not the time, not the outputs, not their calls. -/
theorem commTimeoutCheck_frame (s : State) :
    commTimeoutCheck s =
      { s with
        channels := (commTimeoutCheck s).channels, coord := (commTimeoutCheck s).coord
        stats := (commTimeoutCheck s).stats, link := (commTimeoutCheck s).link, snap := (commTimeoutCheck s).snap
        env := { s.env with diag := (commTimeoutCheck s).env.diag } } := by
  rcases commTimeoutCheck_cases s with e | ⟨_, _, _, e⟩ <;> rw [e]
  rfl

/-! ### The outputs and the kick (R436, R437) -/

/-- Phases A to F make no output call and take no time. -/
theorem tick_before_outputs {s e : State} (he : processFrame (tickBeforeFrame s) = .next e) :
    (commTimeoutCheck e).nowMs = s.nowMs ∧ (commTimeoutCheck e).env.outputs = s.env.outputs := by
  rw [commTimeoutCheck_frame, processFrame_frame he, tickBeforeFrame_before]
  exact ⟨rfl, rfl⟩

/-- Phase G writes both outputs of every channel from the state, and makes the calls for them (R436). -/
theorem applyOutputs_spec (s : State) :
    (∀ i, (applyOutputs s).runOut.get i = decide (s.channels.get i).Active) ∧
      (∀ i, (applyOutputs s).ampOut.get i = (s.regs.channels.get i).amplitudeSetpoint) ∧
      (applyOutputs s).env.outputs =
        s.env.outputs ++ callsFor (applyOutputs s).runOut.get (applyOutputs s).ampOut.get := by
  refine ⟨fun i => ?_, fun i => Quad.get_ofFn _ i, rfl⟩
  rw [Bool.eq_iff_iff, decide_eq_true_eq, Channel.Active, ← isActive_iff]
  exact iff_of_eq (congrArg (· = true) (Quad.get_ofFn _ i))

/-- Settles O38: phase G on the state phase F leaves, and the kick with the time the tick began with. -/
theorem tickAppliesOutputsAndKicks : Obligations.TickAppliesOutputsAndKicks := by
  intro s
  obtain ⟨e, he, ht⟩ := execTick_eq s
  obtain ⟨hnow, hcalls⟩ := tick_before_outputs he
  obtain ⟨hrun, hamp, houtputs⟩ := applyOutputs_spec (commTimeoutCheck e)
  rw [hcalls] at houtputs
  exact ⟨tickAfterFrame e, ht, hrun, hamp, houtputs, hnow, hnow⟩

/-! ### The latches and the edges (R431, R432) -/

/-- A quad that holds one value at every index. -/
theorem Quad.get_same {α : Type} (a : α) (i : Chan) : (⟨a, a, a, a⟩ : Quad α).get i = a := by
  match i with
  | 0 | 1 | 2 | 3 => rfl

/-- Settles O39: phases A and B clear them, and without a frame no later phase writes one. -/
theorem tickConsumesLatchesAndEdges : Obligations.TickConsumesLatchesAndEdges := by
  intro s hq
  obtain ⟨e, _, ht⟩ := execTick_eq s
  obtain ⟨_, _, _, hlatches, hedges⟩ := tickBeforeFrame_spec s
  refine ⟨_, ht, ?_⟩
  rw [tick_of_no_frame ht hq, tickAfterFrame_latches, tickAfterFrame_ovlEdge, hlatches, hedges]
  exact ⟨Latches.reset_get, Quad.get_same false⟩

/-- An edge puts its channel into Overload whatever phase A made of it, and `update()` leaves Overload alone
(42_channel_fsm R236). -/
theorem tickBeforeFrame_overload {s : State} {i : Chan} (h : s.ovlEdge.get i = true) :
    ((tickBeforeFrame s).channels.get i).state = .overload := by
  have updated_entered (n : Nat) (c : Channel) : (c.entered .overload).updated n = c.entered .overload := rfl
  rw [(tickBeforeFrame_spec s).1, h, Channel.edged, if_pos rfl, updated_entered]
  rfl

/-- Settles O40: a channel in Overload is not active, so phases E to H keep it and its `RUN` is off. -/
theorem overloadEdgeForcesOverload : Obligations.OverloadEdgeForcesOverload := by
  intro s i h
  obtain ⟨e, _, ht⟩ := execTick_eq s
  have hstate := tickBeforeFrame_overload h
  obtain ⟨hch, hrun⟩ := tick_channel_of_inactive ht (i := i) (by simp [Channel.Active, hstate])
  exact ⟨_, ht, by rw [hch, hstate], hrun⟩

end Sys2Proof.Machine
end

section
/-! SUPPORT. What phase D shows of the state (70_reset_and_hazards R433): the bits of the two status words
(10_state R23, R28), the counters cut to 16 bits (R22), and each block of the reflected store. Settles O45. -/

namespace Sys2Proof.Machine

/-! ### The status words (10_state R23, R28) -/

theorem getElem_bitAt (b : Bool) (k j : Nat) (hj : j < 16) : (bitAt b k)[j] = (b && decide (j = k)) := by
  unfold bitAt
  rcases Nat.lt_trichotomy j k with h | rfl | h
  · simp [h, h.ne]
  · simp
  · simp [Nat.not_lt.mpr h.le, h.ne', show j - k ≠ 0 by omega]

theorem sysStatusWord_bits (f w e c : Bool) :
    (sysStatusWord f w e c).getLsbD 0 = c ∧ (sysStatusWord f w e c).getLsbD 1 = e ∧
      (sysStatusWord f w e c).getLsbD 2 = w ∧ (sysStatusWord f w e c).getLsbD 3 = f := by
  simp [sysStatusWord, getElem_bitAt]

theorem statusFlagsWord_bits (st : ChannelState) (c a f : Bool) :
    (statusFlagsWord st c a f).getLsbD 0 = decide (st = .running) ∧
      (statusFlagsWord st c a f).getLsbD 1 = decide (st = .overload) ∧
      (statusFlagsWord st c a f).getLsbD 2 = f ∧ (statusFlagsWord st c a f).getLsbD 3 = a ∧
      (statusFlagsWord st c a f).getLsbD 4 = c ∧ (statusFlagsWord st c a f).getLsbD 5 = decide (st = .fault) ∧
      (statusFlagsWord st c a f).getLsbD 6 = decide (st = .starting) ∧
      (statusFlagsWord st c a f).getLsbD 7 = decide (st = .stopping) := by
  simp [statusFlagsWord, getElem_bitAt, Bool.beq_eq_decide_eq]

/-- `ANY_UNIT_FAULT` (10_state R23). -/
theorem someChannel_isFaulted (s : State) :
    someChannel ChannelState.isFaulted s = decide (∃ i, (s.channels.get i).Faulted) := by
  rw [Bool.eq_iff_iff, decide_eq_true_eq, someChannel_iff]
  simp only [isFaulted_iff]

/-! ### The counters (10_state R22, 70_reset_and_hazards R433) -/

theorem low16_toNat (v : U32) : (low16 v).toNat = v.toNat % 65536 := BitVec.toNat_setWidth 16 v

theorem saturate16_toNat (v : U32) : (saturate16 v).toNat = min v.toNat 0xFFFF := by
  unfold saturate16
  split
  · next h => exact (Nat.min_eq_right h.le).symm
  · next h => rw [BitVec.toNat_setWidth, Nat.mod_eq_of_lt (by omega), Nat.min_eq_left (by omega)]

/-- `ACTIVE_COUNT` counts the bits of the mask itself: widening it adds none. -/
theorem popcount16_toNat (m : BitVec 4) : (popcount16 m).toNat = countChannels fun i => m.getLsbD i.val :=
  popcount16_eq m

/-! ### The reflected store -/

theorem reflect_system (s : State) : (reflect s).regs.system = reflectSystem s := rfl

theorem reflect_channel (s : State) (i : Chan) :
    (reflect s).regs.channels.get i = reflectChannel s (sampleAt s.env.sampleNo i) i := Quad.get_ofFn _ i

/-- Settles O45: each register by what its block reflects, the two status words by their bits. -/
theorem reflectionShowsTheState : Obligations.ReflectionShowsTheState := by
  intro s
  dsimp only
  rw [reflect_system]
  obtain ⟨comm, estop, wdt, anyFault⟩ :=
    sysStatusWord_bits (someChannel ChannelState.isFaulted s) s.wdt.flag s.coord.esActive s.link.commFault
  refine ⟨rfl, rfl, ⟨comm, estop, wdt, anyFault.trans (someChannel_isFaulted s), sysStatusWord_lt ..⟩,
    popcount16_toNat _, ?_, rfl, rfl, low16_toNat _, low16_toNat _, low16_toNat _, low16_toNat _, low16_toNat _,
    low16_toNat _, low16_toNat _, low16_toNat _, low16_toNat _, low16_toNat _, saturate16_toNat _, fun i => ?_⟩
  · exact BitVec.toNat_setWidth_of_le (by decide)
  · rw [reflect_channel]
    obtain ⟨b0, b1, b2, b3, b4, b5, b6, b7⟩ :=
      statusFlagsWord_bits (s.ch i) s.link.commFault (sampleAt s.env.sampleNo i).ampFault
        (sampleAt s.env.sampleNo i).freqLock
    exact ⟨rfl, b0, b1, b2, b3, b4, b5, b6, b7, statusFlagsWord_lt ..⟩

end Sys2Proof.Machine
end

section
/-! SUPPORT. The two resets (70_reset_and_hazards R420, R421): both reflect a cold state, and differ in the snapshot and
the watchdog flag; and what no reset changes, the parameters (R423). Settles O34 to O36, O54 and O59. -/

namespace Sys2Proof.Machine

/-! ### A reflected cold state -/

/-- The cold values, but for the watchdog flag, the snapshot and what stands outside the block. -/
def State.coldWith (p : Params) (flag : Bool) (snap : Snapshot) (env : Env) : State :=
  { State.resetWith p with snap := snap, wdt := ⟨0, flag⟩, env := env }

/-- A channel block after a reset that leaves this snapshot: the previous-state registers show it (10_state R29). -/
def resetChannelRegs (snap : Snapshot) (i : Chan) : ChannelRegs :=
  { ChannelRegs.reset with
    prevState := if snap.valid = true then (snap.state.get i).code else 0xFFFF
    prevAmplitude := if snap.valid = true then snap.amp.get i else 0 }

/-- The register store after a reset that leaves this watchdog flag and this snapshot. -/
def resetRegs (flag : Bool) (snap : Snapshot) : RegStore :=
  { RegStore.reset with
    system := { RegStore.reset.system with sysStatus := bitAt flag 2 }
    channels := Quad.ofFn (resetChannelRegs snap) }

section
variable (p : Params) (flag : Bool) (snap : Snapshot) (env : Env)

/-- Of the system status block only `WDT_RESET` can show: every other element and counter is 0. -/
theorem reflectSystem_coldWith :
    reflectSystem (.coldWith p flag snap env) = { RegStore.reset.system with sysStatus := bitAt flag 2 } := by
  have hstatus : sysStatusWord false flag false false = bitAt flag 2 := by cases flag <;> rfl
  have hcount : popcount16 0 = 0 := rfl
  calc reflectSystem (.coldWith p flag snap env)
      = { RegStore.reset.system with
          sysStatus := sysStatusWord false flag false false
          activeCount := popcount16 0 } := rfl
    _ = { RegStore.reset.system with sysStatus := bitAt flag 2 } := by rw [hstatus, hcount]; rfl

/-- Of a status sub-block only the previous-state registers can show: the channel is Stopped and the samples are 0. -/
theorem reflectChannel_coldWith (i : Chan) :
    reflectChannel (.coldWith p flag snap env) (zeroSample i) i = resetChannelRegs snap i := by
  have hflags : statusFlagsWord .stopped false false false = 0 := rfl
  calc reflectChannel (.coldWith p flag snap env) (zeroSample i) i
      = { resetChannelRegs snap i with statusFlags := statusFlagsWord .stopped false false false } := by
        match i with
        | 0 | 1 | 2 | 3 => rfl
    _ = resetChannelRegs snap i := by rw [hflags]; rfl

theorem reflectWith_coldWith :
    reflectWith zeroSample (.coldWith p flag snap env) =
      { State.coldWith p flag snap env with regs := resetRegs flag snap } := by
  simp only [reflectWith, reflectSystem_coldWith, reflectChannel_coldWith]
  rfl

end

/-- Without a flag and a snapshot the reflection shows the cold values themselves. -/
theorem resetRegs_cold : resetRegs false Snapshot.reset = RegStore.reset := rfl

/-- Every reset adds the calls of the cold outputs: `RUN` off and the least amplitude (R420). -/
def Env.afterReset (e : Env) : Env :=
  { e with outputs := e.outputs ++ callsFor (fun _ => false) (fun _ => 20) }

theorem coldReset_eq (s : State) : coldReset s = { State.resetWith s.params with env := s.env.afterReset } := by
  have hcold : coldReset s = reflectWith zeroSample (.coldWith s.params false .reset s.env.afterReset) := rfl
  rw [hcold, reflectWith_coldWith, resetRegs_cold]
  rfl

theorem watchdogReset_eq (s : State) :
    watchdogReset s =
      { State.coldWith s.params true s.snap s.env.afterReset with regs := resetRegs true s.snap } :=
  reflectWith_coldWith s.params true s.snap s.env.afterReset

/-! ### The snapshot of an entry (44_safety_supervisor R350, R352) -/

theorem snapshotOnEntry_eq (s : State) :
    snapshotOnEntry s =
      ({ s with snap := if s.coord.esActive = true then s.snap else snapshotOf s } : State).logged
        (if s.coord.esActive = true then [] else [.snapshotTaken]) := by
  unfold snapshotOnEntry
  split
  · simp [State.logged]
  · rfl

/-! ### The obligations -/

/-- Settles O34: the snapshot and its event come before the reset, which keeps both. -/
theorem watchdogResetResult : Obligations.WatchdogResetResult := by
  intro s h
  dsimp only
  rw [exec_wdtExpire_expired h, watchdogEntry, watchdogReset_eq, snapshotOnEntry_eq]
  rfl

/-- Settles O35: the reset reflects the cold values themselves. -/
theorem powerOnResult : Obligations.PowerOnResult := fun s => congrArg Host.Outcome.next (coldReset_eq s)

/-- Settles O36: the reset state, read element by element. -/
theorem powerOnLeavesTheColdValues : Obligations.PowerOnLeavesTheColdValues := by
  intro s
  refine ⟨_, powerOnResult s, resetWith_channels s.params, rfl, rfl, rfl, rfl,
    ⟨rfl, fun i => ⟨Quad.get_same _ i, Quad.get_same _ i⟩⟩, rfl, rfl, Quad.get_same _, rfl,
    fun i => ⟨Quad.get_same _ i, Quad.get_same _ i⟩, Latches.reset_get, fun r => ?_, fun r => ?_, Quad.get_same _,
    rfl, rfl, rfl⟩
  · cases r <;> rfl
  · cases r <;> rfl

/-- Settles O59: each invariant by its own case of the reset state. -/
theorem resetMeetsTheInvariants : Obligations.ResetMeetsTheInvariants := fun p =>
  ⟨coordInv_resetWith p, (regInv_iff _).mpr storeInv_reset, commsInv_of_empty rfl rfl rfl⟩

/-! ### The parameters (R423) -/

theorem SnapFrame.params {s t : State} (h : SnapFrame s t) : t.params = s.params := by
  unfold SnapFrame at h
  rw [h]

theorem Answered.params {s t : State} (h : Answered s t) : t.params = s.params := by
  rcases h with ⟨ws, p, _, rfl⟩ | ⟨fc, code, _, rfl⟩ <;> rfl

theorem tick_params {s t : State} (h : exec .tick s = .next t) : t.params = s.params := by
  obtain ⟨e, he, rfl⟩ := tick_phases h
  rw [tickAfterFrame_params, processFrame_frame he, tickBeforeFrame_params]

theorem watchdogEntry_params (s : State) : (watchdogEntry s).params = s.params := by
  rw [watchdogEntry, watchdogReset_eq, snapshotOnEntry_eq]
  rfl

theorem exec_params {i : Instr} {s t : State} (h : exec i s = .next t) : t.params = s.params := by
  rcases exec_cases h with
    ⟨_, ha⟩ | hf | rfl | rfl | ⟨_, rfl, _⟩ | ⟨b, rfl⟩ | rfl | ⟨d, rfl⟩ | ⟨c, rfl⟩
  · exact ha.params
  · exact hf.params
  · exact tick_params h
  · cases h
    rfl
  · exact watchdogEntry_params s
  · simp only [exec, execFrame] at h
    split at h <;> cases h <;> rfl
  all_goals
    cases h
    rfl

/-- Settles O54: a step runs one operation, on a state that differs in the model's own fields only. -/
theorem parametersNeverChange : Obligations.ParametersNeverChange := by
  refine ⟨fun i s t => exec_params, fun s t h => ?_⟩
  obtain ⟨i, inbox, turn, he⟩ := step_eq s
  rw [he] at h
  exact (exec_params h).trans rfl

end Sys2Proof.Machine
end
